-- ==== Sys2Proof/Word.lean ====
section
/-! DEFINITION. The word types of the block (00_scope.md rules R9, R11, R12; 30_encoding.md rule R100) and the unit of a
request stream. -/

namespace Sys2Proof

/-- A byte of data or an 8-bit field (`u8`, `s8`; R11). -/
abbrev Byte := BitVec 8

/-- A 16-bit field (`u16`; R11). -/
abbrev Half := BitVec 16

/-- A 32-bit word of a request or a response, and an access address (`u32`; R9 `AA_W`, R100, R103). -/
abbrev Word := BitVec 32

/-- A CRC register value or CRC seed, 24 bits (R9 `CRC_W`, R160, C1). -/
abbrev Crc := BitVec 24

/-- A 48-bit device address or filter mask (R9 `FILTER_W`, R40). -/
abbrev Addr48 := BitVec 48

/-- A timestamp in ticks, `TS_W = 32` bits (R10, D23). -/
abbrev Ts := BitVec 32

/-- The units a request travels in: 32-bit words, then data bytes (R100). They are kept apart because the spec gives no byte
order to a word on the transport (log 3). -/
inductive Beat where
  | word (w : Word)
  | byte (b : Byte)
  deriving DecidableEq, Repr

end Sys2Proof
end

