-- ==== Sys2Proof/Config.lean ====
section
/-! DEFINITION. The constants the source fixes (00_scope.md rule R9), the parameters it leaves open (R10, D17, D23, D24, D27) and
the free values of the model. -/

namespace Sys2Proof

/-- The two agents that issue operations (R5). -/
inductive Agent where
  | cap
  | proc
  deriving DecidableEq, Repr, Inhabited

/-- The implementation parameters that a model takes as arguments (R10, U18). The first four are OPEN; the others are decided
and kept as arguments, as U18 allows. -/
structure Params where
  /-- `TICKS_PER_UNIT`, timestamp ticks in one 1.25 ms unit (D23, OPEN). -/
  ticksPerUnit : Nat
  /-- `MIN_GAP`, gaps under this many ticks are skipped by the hop-interval stage (D24, OPEN). -/
  minGap : Nat
  /-- `MAX_PDU_LEN`, the largest legal declared payload length (D17, OPEN). -/
  maxPduLen : Nat
  /-- `PROBE_RETRY_MAX`, inconclusive probe results tolerated before a re-seed (D27, OPEN). -/
  probeRetryMax : Nat
  /-- `LEN_MASK`, which bits of header byte 1 are the declared length (D17). -/
  lenMask : Byte
  /-- `PROBE_A`, the first probe channel (D26). -/
  probeA : Byte
  /-- `PROBE_B`, the second probe channel (D26). -/
  probeB : Byte
  /-- `VERIFY_ON_SEED`, whether seed recovery switches CRC verification on (D39). -/
  verifyOnSeed : Bool
  deriving DecidableEq, Repr

/-- The constraints U18 puts on the parameters. -/
abbrev Params.Wf (p : Params) : Prop :=
  1 ≤ p.ticksPerUnit ∧ 2 + p.maxPduLen + 3 ≤ 263 ∧ p.probeA ≠ p.probeB ∧ p.probeA.toNat ≤ 36 ∧ p.probeB.toNat ≤ 36

namespace Config

/-- `N_DATA`: data channels 0..36, the hop modulus and the divisor of the hop-interval estimate (R9). -/
abbrev nData : Nat := 37

/-- The largest channel index, `N_CHAN - 1` (R9). -/
abbrev maxChan : Nat := 39

/-- `CRC_MASK_F` (R9, R160). -/
abbrev crcMaskF : Crc := 0x5A6000#24

/-- `CRC_MASK_R` (R9, R160). -/
abbrev crcMaskR : Crc := 0xB4C000#24

/-- `WH_LEN`, the period of the whitening sequence (R9). -/
abbrev whLen : Nat := 127

/-- `AC_PROMOTE`: a candidate is promoted when its count exceeds this (R9). -/
abbrev acPromote : Nat := 3

/-- `PB_CAP`, byte capacity of one buffer (R9). -/
abbrev pbCap : Nat := 263

/-- `DATA_MAX`, the longest byte string an operation takes (R10, D13). -/
abbrev dataMax : Nat := 263

/-- `HI_CONSEC`, matching estimates that freeze the interval (R9). -/
abbrev hiConsec : Nat := 5

/-- `CONN_TIMEOUT_DEFAULT` of 5 s in units of 1.25 ms (R9, R41). -/
abbrev connTimeoutUnits : Nat := 4000

/-- `TICKS_PER_UNIT` less one; open (D23), with the constraint `TICKS_PER_UNIT >= 1` of U18 built in. No value is chosen
(log 7). -/
opaque ticksPerUnitLessOne : Nat

/-- `MIN_GAP`; open (D24). No value is chosen (log 7). -/
opaque minGap : Nat

/-- `MAX_PDU_LEN`; open (D17), with the constraint `2 + MAX_PDU_LEN + 3 <= 263` of U18 built in. No value is chosen (log 7). -/
opaque maxPduLen : Fin 259

/-- `PROBE_RETRY_MAX`; open (D27). No value is chosen (log 7). -/
opaque probeRetryMax : Nat

/-- The arbiter's choice when both ports hold a request and no schedule says which is served (R6, U5): a free value (DESIGN CHOICE, log 4). -/
opaque arbiter : Nat → Agent

/-- What `rdiv a 0` is: R13 defines `rdiv` for a positive divisor only, so this is a free value (log 13). -/
opaque rdivByZero : Nat → Nat

/-- The parameters of the implementation at reset: the open ones free, the decided ones as `92_eei_decisions.md` decides them
(log 7, log 8). -/
def params : Params :=
  { ticksPerUnit := ticksPerUnitLessOne + 1
    minGap := minGap
    maxPduLen := maxPduLen.val
    probeRetryMax := probeRetryMax
    lenMask := 0xFF#8
    probeA := 0#8
    probeB := 1#8
    verifyOnSeed := true }

end Config
end Sys2Proof
end

