-- ==== Sys2Proof/Syntax.lean ====
section
/-! DEFINITION. The operations of the block as typed requests: one constructor for each of the 46 rows of
spec/opcode_table.json, in the table's order (30_encoding.md rule R104). Operands have the widths of their rules; range checks
are the operations' own (R107). -/

namespace Sys2Proof

/-- One request, decoded. The docstring of a constructor names the rule of its operands. -/
inductive Instr where
  /-- `CM_I2F idx` (R130). -/
  | cmI2f (idx : Byte)
  /-- `CM_F2I freq` (R131). -/
  | cmF2i (freq : Half)
  /-- `CM_ADV` (R132). -/
  | cmAdv
  /-- `CM_HOP idx, inc` (R133). -/
  | cmHop (idx inc : Byte)
  /-- `WH_LOAD ch, start` (R143). -/
  | whLoad (ch : Byte) (start : Half)
  /-- `WH_STEP nbits` (R144). -/
  | whStep (nbits : Byte)
  /-- `WH_XOR ch, start, data` (R145). -/
  | whXor (ch : Byte) (start : Half) (data : List Byte)
  /-- `WH_XORS data` (R146). -/
  | whXors (data : List Byte)
  /-- `WH_REFL data` (R148). -/
  | whRefl (data : List Byte)
  /-- `CRC_FWD seed, data` (R162). -/
  | crcFwd (seed : Crc) (data : List Byte)
  /-- `CRC_FWDT seed, data` (R163). -/
  | crcFwdt (seed : Crc) (data : List Byte)
  /-- `CRC_REV crc, data` (R165). -/
  | crcRev (crc : Crc) (data : List Byte)
  /-- `CRC_REV24 v` (R167). -/
  | crcRev24 (v : Crc)
  /-- `CRC_CHK seed, data` (R169). -/
  | crcChk (seed : Crc) (data : List Byte)
  /-- `PB_ACQ` (R182). -/
  | pbAcq
  /-- `PB_WRITE data` (R183). -/
  | pbWrite (data : List Byte)
  /-- `PB_RSSI sample`, the sample as its two's-complement byte (R184, R106). -/
  | pbRssi (sample : Byte)
  /-- `PB_COMMIT chan, ts, aa` (R185). -/
  | pbCommit (chan : Byte) (ts : Ts) (aa : Word)
  /-- `PB_ABORT` (R186). -/
  | pbAbort
  /-- `PB_POLL` (R187). -/
  | pbPoll
  /-- `PB_READ buf` (R188). -/
  | pbRead (buf : Byte)
  /-- `PB_REL buf` (R189). -/
  | pbRel (buf : Byte)
  /-- `PB_STAT` (R190). -/
  | pbStat
  /-- `AC_CLEAR` (R211). -/
  | acClear
  /-- `AC_SEE aa` (R212). -/
  | acSee (aa : Word)
  /-- `AC_SCAN ch, data`, the data in receive order (R216). -/
  | acScan (ch : Byte) (data : List Byte)
  /-- `AC_GET slot` (R218). -/
  | acGet (slot : Byte)
  /-- `PR_START ch` (R231). -/
  | prStart (ch : Byte)
  /-- `PR_STOP` (R232). -/
  | prStop
  /-- `PR_PKT buf` (R237). -/
  | prPkt (buf : Byte)
  /-- `TICK now` (R260). -/
  | tick (now : Ts)
  /-- `PR_RESEED` (R235). -/
  | prReseed
  /-- `PR_GET` (R255). -/
  | prGet
  /-- `PR_SETAA aa` (R233). -/
  | prSetaa (aa : Word)
  /-- `PR_GETAA` (R256). -/
  | prGetaa
  /-- `PR_SETCV on` (R257). -/
  | prSetcv (on : Byte)
  /-- `PR_GETCV` (R258). -/
  | prGetcv
  /-- `PR_SETTO which, ticks` (R259). -/
  | prSetto (which : Byte) (ticks : Word)
  /-- `LS_FOLLOW ch` (R271). -/
  | lsFollow (ch : Byte)
  /-- `LS_STOP` (R272). -/
  | lsStop
  /-- `LS_FILTER addr, mask` (R273). -/
  | lsFilter (addr mask : Addr48)
  /-- `LS_CONNREQ hopinc, aa, crc, win_size, win_offset, interval, ts, init, adv` (R275). -/
  | lsConnreq (hopinc : Byte) (aa : Word) (crc : Crc) (winSize : Byte) (winOffset interval : Half) (ts : Ts)
      (init adv : Addr48)
  /-- `LS_UPDATE win_size, instant, interval, win_offset` (R282). -/
  | lsUpdate (winSize : Byte) (instant interval winOffset : Half)
  /-- `LS_EVENT` (R283). -/
  | lsEvent
  /-- `LS_CANCEL` (R290). -/
  | lsCancel
  /-- `RT_TAKE` (R291). -/
  | rtTake
  deriving DecidableEq, Repr

end Sys2Proof
end

