-- ==== Sys2Proof/WellFormed.lean ====
section
/-! DEFINITION. Which typed requests have an encoding: the data bytes are counted by the 16-bit field `B` (30_encoding.md rules
R100, R101). Every other operand is a bit vector of its field's width, and any value of it is encodable (R107). -/

namespace Sys2Proof

/-- The data bytes a request carries (R101); none for a format without `D`. -/
def Instr.data : Instr → List Byte
  | .whXor _ _ d => d
  | .whXors d => d
  | .whRefl d => d
  | .crcFwd _ d => d
  | .crcFwdt _ d => d
  | .crcRev _ d => d
  | .crcChk _ d => d
  | .pbWrite d => d
  | .acScan _ d => d
  | .cmI2f _ => []
  | .cmF2i _ => []
  | .cmAdv => []
  | .cmHop _ _ => []
  | .whLoad _ _ => []
  | .whStep _ => []
  | .crcRev24 _ => []
  | .pbAcq => []
  | .pbRssi _ => []
  | .pbCommit _ _ _ => []
  | .pbAbort => []
  | .pbPoll => []
  | .pbRead _ => []
  | .pbRel _ => []
  | .pbStat => []
  | .acClear => []
  | .acSee _ => []
  | .acGet _ => []
  | .prStart _ => []
  | .prStop => []
  | .prPkt _ => []
  | .tick _ => []
  | .prReseed => []
  | .prGet => []
  | .prSetaa _ => []
  | .prGetaa => []
  | .prSetcv _ => []
  | .prGetcv => []
  | .prSetto _ _ => []
  | .lsFollow _ => []
  | .lsStop => []
  | .lsFilter _ _ => []
  | .lsConnreq _ _ _ _ _ _ _ _ _ => []
  | .lsUpdate _ _ _ _ => []
  | .lsEvent => []
  | .lsCancel => []
  | .rtTake => []

/-- A request is well formed when its data length fits the field `B` (R100, R101). Longer than `DATA_MAX` is well formed and
answered `RANGE` by the operation (R107). -/
abbrev Instr.Wf (i : Instr) : Prop := i.data.length < 65536

end Sys2Proof
end

