-- ==== Sys2Proof/Decode.lean ====
section
/-! DEFINITION. Decoding a request stream (30_encoding.md rules R100 to R109) and the encoder of a typed request. The stream is a
list of words and bytes (log 3); the decoder is total on it: it answers an instruction and the rest of the stream, or says by
name why the head of the stream is an illegal request (R108), or by name why it is no whole request at all (R101, U4). -/

namespace Sys2Proof

/-- The 46 operations, named without their operands (R104). -/
inductive Op where
  | cmI2f | cmF2i | cmAdv | cmHop | whLoad | whStep | whXor | whXors
  | whRefl | crcFwd | crcFwdt | crcRev | crcRev24 | crcChk | pbAcq | pbWrite
  | pbRssi | pbCommit | pbAbort | pbPoll | pbRead | pbRel | pbStat | acClear
  | acSee | acScan | acGet | prStart | prStop | prPkt | tick | prReseed
  | prGet | prSetaa | prGetaa | prSetcv | prGetcv | prSetto | lsFollow | lsStop
  | lsFilter | lsConnreq | lsUpdate | lsEvent | lsCancel | rtTake
  deriving DecidableEq, Repr

/-- The value of the field `OP` (R104). -/
def Op.code : Op → Byte
  | .cmI2f => 0x01#8
  | .cmF2i => 0x02#8
  | .cmAdv => 0x03#8
  | .cmHop => 0x04#8
  | .whLoad => 0x10#8
  | .whStep => 0x11#8
  | .whXor => 0x12#8
  | .whXors => 0x13#8
  | .whRefl => 0x14#8
  | .crcFwd => 0x20#8
  | .crcFwdt => 0x21#8
  | .crcRev => 0x22#8
  | .crcRev24 => 0x23#8
  | .crcChk => 0x24#8
  | .pbAcq => 0x30#8
  | .pbWrite => 0x31#8
  | .pbRssi => 0x32#8
  | .pbCommit => 0x33#8
  | .pbAbort => 0x34#8
  | .pbPoll => 0x35#8
  | .pbRead => 0x36#8
  | .pbRel => 0x37#8
  | .pbStat => 0x38#8
  | .acClear => 0x40#8
  | .acSee => 0x41#8
  | .acScan => 0x42#8
  | .acGet => 0x43#8
  | .prStart => 0x50#8
  | .prStop => 0x51#8
  | .prPkt => 0x52#8
  | .tick => 0x53#8
  | .prReseed => 0x54#8
  | .prGet => 0x55#8
  | .prSetaa => 0x56#8
  | .prGetaa => 0x57#8
  | .prSetcv => 0x58#8
  | .prGetcv => 0x59#8
  | .prSetto => 0x5A#8
  | .lsFollow => 0x60#8
  | .lsStop => 0x61#8
  | .lsFilter => 0x62#8
  | .lsConnreq => 0x63#8
  | .lsUpdate => 0x64#8
  | .lsEvent => 0x65#8
  | .lsCancel => 0x66#8
  | .rtTake => 0x67#8

/-- The 46 operations in the table's order (R104). -/
def Op.all : List Op :=
  [.cmI2f, .cmF2i, .cmAdv, .cmHop, .whLoad, .whStep, .whXor, .whXors,
   .whRefl, .crcFwd, .crcFwdt, .crcRev, .crcRev24, .crcChk, .pbAcq, .pbWrite,
   .pbRssi, .pbCommit, .pbAbort, .pbPoll, .pbRead, .pbRel, .pbStat, .acClear,
   .acSee, .acScan, .acGet, .prStart, .prStop, .prPkt, .tick, .prReseed,
   .prGet, .prSetaa, .prGetaa, .prSetcv, .prGetcv, .prSetto, .lsFollow, .lsStop,
   .lsFilter, .lsConnreq, .lsUpdate, .lsEvent, .lsCancel, .rtTake]

/-- The operation of an `OP` value; none for the unlisted values (R108). -/
def Op.ofCode (c : Byte) : Option Op := Op.all.find? (fun o => o.code == c)

/-- How an operation uses the field `B`: not at all, bits 7:0 of it only (`CM_HOP`, R105), or whole. -/
inductive BUse where
  | unused
  | low
  | whole
  deriving DecidableEq, Repr

/-- A request format (R101): use of the fields `A` and `B`, the number of operand words, whether `B` data bytes follow. -/
structure Format where
  a : Bool
  b : BUse
  words : Nat
  data : Bool
  deriving DecidableEq, Repr

/-- Format Z. -/
def fZ : Format := { a := false, b := .unused, words := 0, data := false }

/-- Format A. -/
def fA : Format := { a := true, b := .unused, words := 0, data := false }

/-- Format B. -/
def fB : Format := { a := false, b := .whole, words := 0, data := false }

/-- Format AB. -/
def fAB : Format := { a := true, b := .whole, words := 0, data := false }

/-- Format AB with bits 15:8 of `B` zero (`CM_HOP`, R105). -/
def fHop : Format := { a := true, b := .low, words := 0, data := false }

/-- Format ABW1D. -/
def fABW1D : Format := { a := true, b := .whole, words := 1, data := true }

/-- Format BD. -/
def fBD : Format := { a := false, b := .whole, words := 0, data := true }

/-- Format BW1D. -/
def fBW1D : Format := { a := false, b := .whole, words := 1, data := true }

/-- Format W1. -/
def fW1 : Format := { a := false, b := .unused, words := 1, data := false }

/-- Format AW2. -/
def fAW2 : Format := { a := true, b := .unused, words := 2, data := false }

/-- Format ABD. -/
def fABD : Format := { a := true, b := .whole, words := 0, data := true }

/-- Format AW1. -/
def fAW1 : Format := { a := true, b := .unused, words := 1, data := false }

/-- Format W4. -/
def fW4 : Format := { a := false, b := .unused, words := 4, data := false }

/-- Format AW7. -/
def fAW7 : Format := { a := true, b := .unused, words := 7, data := false }

/-- Format ABW1. -/
def fABW1 : Format := { a := true, b := .whole, words := 1, data := false }

/-- The format of each operation (R104). -/
def Op.format : Op → Format
  | .cmI2f => fA
  | .cmF2i => fB
  | .cmAdv => fZ
  | .cmHop => fHop
  | .whLoad => fAB
  | .whStep => fA
  | .whXor => fABW1D
  | .whXors => fBD
  | .whRefl => fBD
  | .crcFwd => fBW1D
  | .crcFwdt => fBW1D
  | .crcRev => fBW1D
  | .crcRev24 => fW1
  | .crcChk => fBW1D
  | .pbAcq => fZ
  | .pbWrite => fBD
  | .pbRssi => fA
  | .pbCommit => fAW2
  | .pbAbort => fZ
  | .pbPoll => fZ
  | .pbRead => fA
  | .pbRel => fA
  | .pbStat => fZ
  | .acClear => fZ
  | .acSee => fW1
  | .acScan => fABD
  | .acGet => fA
  | .prStart => fA
  | .prStop => fZ
  | .prPkt => fA
  | .tick => fW1
  | .prReseed => fZ
  | .prGet => fZ
  | .prSetaa => fW1
  | .prGetaa => fZ
  | .prSetcv => fA
  | .prGetcv => fZ
  | .prSetto => fAW1
  | .lsFollow => fA
  | .lsStop => fZ
  | .lsFilter => fW4
  | .lsConnreq => fAW7
  | .lsUpdate => fABW1
  | .lsEvent => fZ
  | .lsCancel => fZ
  | .rtTake => fZ

/-- The mask of a format (R105): bits of unused fields are in the mask and must match 0. -/
def Format.mask (f : Format) : Word :=
  0x000000FF#32 ||| (if f.a then 0#32 else 0x0000FF00#32) |||
    (match f.b with
     | .unused => 0xFFFF0000#32
     | .low => 0xFF000000#32
     | .whole => 0#32)

/-- The field `OP` of a command word, bits 7:0 (R100). -/
def fieldOp (cw : Word) : Byte := cw.extractLsb' 0 8

/-- The field `A` of a command word, bits 15:8 (R100). -/
def fieldA (cw : Word) : Byte := cw.extractLsb' 8 8

/-- The field `B` of a command word, bits 31:16 (R100). -/
def fieldB (cw : Word) : Half := cw.extractLsb' 16 16

/-- The command word with the given fields (R100). -/
def cmdWord (op : Op) (a : Byte) (b : Half) : Word := (b ++ (a ++ op.code) : BitVec (16 + (8 + 8)))

/-- A 24-bit operand word: bits 31:24 must be 0 (R102). -/
def operand24 (w : Word) : Option Crc := if w.extractLsb' 24 8 = 0#8 then some (w.setWidth 24) else none

/-- A 16-bit operand word: bits 31:16 must be 0 (R102). -/
def operand16 (w : Word) : Option Half := if w.extractLsb' 16 16 = 0#16 then some (w.setWidth 16) else none

/-- Bits 31:16 of a packed operand word (R104). -/
def hiHalf (w : Word) : Half := w.extractLsb' 16 16

/-- Bits 15:0 of a packed operand word (R104). -/
def loHalf (w : Word) : Half := w.extractLsb' 0 16

/-- A word packed of two halves, the first in the more significant bits (R12, R104). -/
def packHalves (hi lo : Half) : Word := (hi ++ lo : BitVec (16 + 16))

/-- A 48-bit value from its low word and its high half (R106). -/
def packAddr (hi : Half) (lo : Word) : Addr48 := (hi ++ lo : BitVec (16 + 32))

/-- Why a framed request is illegal (R108). -/
inductive Illegal where
  /-- The `OP` is not in rule R104: one word is consumed. -/
  | unknownOp
  /-- A field the operation does not use is not 0 (R100, R105): the whole request is consumed. -/
  | unusedField
  /-- An operand word breaks rule R102: the whole request is consumed. -/
  | operandWord
  deriving DecidableEq, Repr

/-- Why the head of a stream is no whole request (R101: "the block is not defined on a mis-framed stream"). -/
inductive FrameError where
  /-- A data byte stands where the command word or an operand word is due. -/
  | byteForWord
  /-- A word stands where a data byte is due. -/
  | wordForByte
  /-- The stream ends where a word is due. -/
  | missingWord
  /-- The stream ends where a data byte is due. -/
  | missingByte
  deriving DecidableEq, Repr

/-- What the decoder answers: an instruction, or an illegal request, each with the rest of the stream after it, or a stream that
does not begin with a whole request. -/
inductive Decoded where
  | instr (i : Instr) (rest : List Beat)
  | illegal (why : Illegal) (rest : List Beat)
  | misframed (why : FrameError)
  deriving DecidableEq, Repr

/-- The first `n` words of a stream and the rest of it (R100). -/
def takeWords : Nat → List Beat → Except FrameError (List Word × List Beat)
  | 0, r => .ok ([], r)
  | _ + 1, [] => .error .missingWord
  | _ + 1, .byte _ :: _ => .error .byteForWord
  | n + 1, .word w :: r =>
    match takeWords n r with
    | .ok (ws, r') => .ok (w :: ws, r')
    | .error e => .error e

/-- The first `n` data bytes of a stream and the rest of it (R100). -/
def takeBytes : Nat → List Beat → Except FrameError (List Byte × List Beat)
  | 0, r => .ok ([], r)
  | _ + 1, [] => .error .missingByte
  | _ + 1, .word _ :: _ => .error .wordForByte
  | n + 1, .byte b :: r =>
    match takeBytes n r with
    | .ok (bs, r') => .ok (b :: bs, r')
    | .error e => .error e

/-- The typed request of an operation's fields, operand words and data bytes (R104, R106); none where an operand word breaks
rule R102 (or where there are not the format's number of words, which `decode` never gives it). -/
def operands (op : Op) (a : Byte) (b : Half) (ws : List Word) (d : List Byte) : Option Instr :=
  match op, ws with
  | .cmI2f, [] => some (.cmI2f a)
  | .cmF2i, [] => some (.cmF2i b)
  | .cmAdv, [] => some .cmAdv
  | .cmHop, [] => some (.cmHop a (b.setWidth 8))
  | .whLoad, [] => some (.whLoad a b)
  | .whStep, [] => some (.whStep a)
  | .whXor, [w1] => (operand16 w1).map fun start => .whXor a start d
  | .whXors, [] => some (.whXors d)
  | .whRefl, [] => some (.whRefl d)
  | .crcFwd, [w1] => (operand24 w1).map fun seed => .crcFwd seed d
  | .crcFwdt, [w1] => (operand24 w1).map fun seed => .crcFwdt seed d
  | .crcRev, [w1] => (operand24 w1).map fun crc => .crcRev crc d
  | .crcRev24, [w1] => (operand24 w1).map fun v => .crcRev24 v
  | .crcChk, [w1] => (operand24 w1).map fun seed => .crcChk seed d
  | .pbAcq, [] => some .pbAcq
  | .pbWrite, [] => some (.pbWrite d)
  | .pbRssi, [] => some (.pbRssi a)
  | .pbCommit, [w1, w2] => some (.pbCommit a w1 w2)
  | .pbAbort, [] => some .pbAbort
  | .pbPoll, [] => some .pbPoll
  | .pbRead, [] => some (.pbRead a)
  | .pbRel, [] => some (.pbRel a)
  | .pbStat, [] => some .pbStat
  | .acClear, [] => some .acClear
  | .acSee, [w1] => some (.acSee w1)
  | .acScan, [] => some (.acScan a d)
  | .acGet, [] => some (.acGet a)
  | .prStart, [] => some (.prStart a)
  | .prStop, [] => some .prStop
  | .prPkt, [] => some (.prPkt a)
  | .tick, [w1] => some (.tick w1)
  | .prReseed, [] => some .prReseed
  | .prGet, [] => some .prGet
  | .prSetaa, [w1] => some (.prSetaa w1)
  | .prGetaa, [] => some .prGetaa
  | .prSetcv, [] => some (.prSetcv a)
  | .prGetcv, [] => some .prGetcv
  | .prSetto, [w1] => some (.prSetto a w1)
  | .lsFollow, [] => some (.lsFollow a)
  | .lsStop, [] => some .lsStop
  | .lsFilter, [w1, w2, w3, w4] =>
    match operand16 w2, operand16 w4 with
    | some addrHi, some maskHi => some (.lsFilter (packAddr addrHi w1) (packAddr maskHi w3))
    | _, _ => none
  | .lsConnreq, [w1, w2, w3, w4, w5, w6, w7] =>
    some (.lsConnreq a w1 (w2.setWidth 24) (w2.extractLsb' 24 8) (loHalf w3) (hiHalf w3) w4
      (packAddr (loHalf w6) w5) (w7 ++ hiHalf w6 : BitVec (32 + 16)))
  | .lsUpdate, [w1] => some (.lsUpdate a b (hiHalf w1) (loHalf w1))
  | .lsEvent, [] => some .lsEvent
  | .lsCancel, [] => some .lsCancel
  | .rtTake, [] => some .rtTake
  | _, _ => none

/-- The number of data bytes that follow the operand words: `n = B` for a format with `D` (R101). -/
def Format.dataLength (f : Format) (cw : Word) : Nat := if f.data then (fieldB cw).toNat else 0

/-- Decode the request at the head of a stream (R100 to R102, R104 to R106, R108). -/
def decode : List Beat → Decoded
  | [] => .misframed .missingWord
  | .byte _ :: _ => .misframed .byteForWord
  | .word cw :: r =>
    match Op.ofCode (fieldOp cw) with
    | none => .illegal .unknownOp r
    | some op =>
      match takeWords op.format.words r with
      | .error e => .misframed e
      | .ok (ws, r1) =>
        match takeBytes (op.format.dataLength cw) r1 with
        | .error e => .misframed e
        | .ok (d, r2) =>
          if cw &&& op.format.mask = op.code.setWidth 32 then
            match operands op (fieldA cw) (fieldB cw) ws d with
            | some i => .instr i r2
            | none => .illegal .operandWord r2
          else .illegal .unusedField r2

/-! ### The encoder -/

/-- A request as a stream: the command word, the operand words, the data bytes (R100). -/
def request (op : Op) (a : Byte) (b : Half) (ws : List Word) (d : List Byte) : List Beat :=
  .word (cmdWord op a b) :: (ws.map .word ++ d.map .byte)

/-- The field `B` of a request with data: the data length (R101). -/
def lengthField (d : List Byte) : Half := BitVec.ofNat 16 d.length

/-- The words and bytes of a typed request (R100 to R106). -/
def encode : Instr → List Beat
  | .cmI2f idx => request .cmI2f idx 0 [] []
  | .cmF2i freq => request .cmF2i 0 freq [] []
  | .cmAdv => request .cmAdv 0 0 [] []
  | .cmHop idx inc => request .cmHop idx (inc.setWidth 16) [] []
  | .whLoad ch start => request .whLoad ch start [] []
  | .whStep nbits => request .whStep nbits 0 [] []
  | .whXor ch start d => request .whXor ch (lengthField d) [start.setWidth 32] d
  | .whXors d => request .whXors 0 (lengthField d) [] d
  | .whRefl d => request .whRefl 0 (lengthField d) [] d
  | .crcFwd seed d => request .crcFwd 0 (lengthField d) [seed.setWidth 32] d
  | .crcFwdt seed d => request .crcFwdt 0 (lengthField d) [seed.setWidth 32] d
  | .crcRev crc d => request .crcRev 0 (lengthField d) [crc.setWidth 32] d
  | .crcRev24 v => request .crcRev24 0 0 [v.setWidth 32] []
  | .crcChk seed d => request .crcChk 0 (lengthField d) [seed.setWidth 32] d
  | .pbAcq => request .pbAcq 0 0 [] []
  | .pbWrite d => request .pbWrite 0 (lengthField d) [] d
  | .pbRssi sample => request .pbRssi sample 0 [] []
  | .pbCommit chan ts aa => request .pbCommit chan 0 [ts, aa] []
  | .pbAbort => request .pbAbort 0 0 [] []
  | .pbPoll => request .pbPoll 0 0 [] []
  | .pbRead buf => request .pbRead buf 0 [] []
  | .pbRel buf => request .pbRel buf 0 [] []
  | .pbStat => request .pbStat 0 0 [] []
  | .acClear => request .acClear 0 0 [] []
  | .acSee aa => request .acSee 0 0 [aa] []
  | .acScan ch d => request .acScan ch (lengthField d) [] d
  | .acGet slot => request .acGet slot 0 [] []
  | .prStart ch => request .prStart ch 0 [] []
  | .prStop => request .prStop 0 0 [] []
  | .prPkt buf => request .prPkt buf 0 [] []
  | .tick now => request .tick 0 0 [now] []
  | .prReseed => request .prReseed 0 0 [] []
  | .prGet => request .prGet 0 0 [] []
  | .prSetaa aa => request .prSetaa 0 0 [aa] []
  | .prGetaa => request .prGetaa 0 0 [] []
  | .prSetcv on => request .prSetcv on 0 [] []
  | .prGetcv => request .prGetcv 0 0 [] []
  | .prSetto which ticks => request .prSetto which 0 [ticks] []
  | .lsFollow ch => request .lsFollow ch 0 [] []
  | .lsStop => request .lsStop 0 0 [] []
  | .lsFilter addr mask =>
    request .lsFilter 0 0
      [addr.extractLsb' 0 32, (addr.extractLsb' 32 16).setWidth 32,
       mask.extractLsb' 0 32, (mask.extractLsb' 32 16).setWidth 32] []
  | .lsConnreq hopinc aa crc winSize winOffset interval ts init adv =>
    request .lsConnreq hopinc 0
      [aa, (winSize ++ crc : BitVec (8 + 24)), packHalves interval winOffset, ts, init.extractLsb' 0 32,
       packHalves (adv.extractLsb' 0 16) (init.extractLsb' 32 16), adv.extractLsb' 16 32] []
  | .lsUpdate winSize instant interval winOffset =>
    request .lsUpdate winSize instant [packHalves interval winOffset] []
  | .lsEvent => request .lsEvent 0 0 [] []
  | .lsCancel => request .lsCancel 0 0 [] []
  | .rtTake => request .rtTake 0 0 [] []

/-! ### Requests as the opcode table numbers their bits -/

/-- The stream of the request whose bits are `w`, of which `nbits` are given and every further bit is 0: the command word is bits
31:0, operand word `j` is bits `32j+31:32j`, and the data bytes follow the last operand word. -/
def tableRequest (nbits w : Nat) : List Beat :=
  let v := w % 2 ^ nbits
  let cw : Word := BitVec.ofNat 32 v
  match Op.ofCode (fieldOp cw) with
  | none => [.word cw]
  | some op =>
    .word cw ::
      ((List.range op.format.words).map (fun j => .word (BitVec.ofNat 32 (v >>> (32 * (j + 1))))) ++
       (List.range (op.format.dataLength cw)).map
         (fun i => .byte (BitVec.ofNat 8 (v >>> (32 * (op.format.words + 1) + 8 * i)))))

/-- The instruction the decoder reads from a request whose bits are `w`, numbered as spec/opcode_table.json numbers them. -/
def decodeTableWord (nbits w : Nat) : Option Instr :=
  match decode (tableRequest nbits w) with
  | .instr i _ => some i
  | .illegal _ _ => none
  | .misframed _ => none

end Sys2Proof
end

