-- ==== Sys2Proof/Machine/State.lean ====
section
/-! DEFINITION. The state of the block as plain data (10_state.md rules R22 to R48), the two request ports (R5, R100, R103), the
reasons a step can stop, and the state after reset (R64, R340, R341). -/

namespace Sys2Proof.Machine

/-- `MODE` (R22). The code 3 does not exist (U2). -/
inductive Mode where
  | off
  | promisc
  | follow
  deriving DecidableEq, Repr

/-- `STAGE` (R23). The codes 6 and 7 do not exist (U2). -/
inductive Stage where
  | idle
  | discovery
  | crcRecovery
  | hopIntervalRecovery
  | hopIncrementRecovery
  | connectionFollow
  deriving DecidableEq, Repr

/-- `LSTATE` (R24). -/
inductive LState where
  | inactive
  | listening
  | connPending
  | connected
  deriving DecidableEq, Repr

/-- The owner tag of a packet buffer (R43, R180). The code 3 does not exist (U2). -/
inductive Tag where
  | free
  | capturing
  | queued
  deriving DecidableEq, Repr

/-- The status a response ends with (R301). -/
inductive Status where
  | ok
  | range
  | illegal
  | perm
  | badState
  | badTag
  | noBuf
  | empty
  | malformed
  | notLoaded
  deriving DecidableEq, Repr

/-- The `source` field of an `AA` event (R311). -/
inductive AaSource where
  | promoted
  | operator
  | request
  deriving DecidableEq, Repr

/-- The `reason` field of a `RESEED` event (R236, R311). -/
inductive ReseedReason where
  | command
  | discoveryTimeout
  | recoveryTimeout
  | probesExhausted
  | inactivity
  | cancel
  deriving DecidableEq, Repr

/-- The `which` field of a `TIMEOUT` event (R260, R311). -/
inductive TimeoutKind where
  | discovery
  | recovery
  | inactivity
  deriving DecidableEq, Repr

/-- The event records (R310, R311), one constructor for each code. -/
inductive Event where
  /-- `AA`: a tracked address is set. -/
  | aa (aa : Word) (source : AaSource)
  /-- `CRC`: the CRC seed became known. -/
  | crc (raw lfsr : Crc)
  /-- `INTERVAL`: the connection interval became known. -/
  | interval (interval : Half)
  /-- `HOPINC`: the hop increment became known. -/
  | hopinc (hopinc : Byte)
  /-- `STAGE`: a stage transition. -/
  | stage (mode : Mode) (stage : Stage) (lstate : LState)
  /-- `RESEED`. -/
  | reseed (reason : ReseedReason)
  /-- `TIMEOUT`. -/
  | timeout (which : TimeoutKind) (elapsed : Ts)
  /-- `PACKET`: a packet was accepted. -/
  | packet (buf : Fin 4) (crcValid checked : Bool) (aa : Word) (ts : Ts)
  /-- `CAND`: a scan found a candidate; `e4`, `e5` are the two header bytes. -/
  | cand (pos : Half) (aa : Word) (e4 e5 : Byte)
  /-- `UPDATE`: a pending update took effect. -/
  | update (interval : Half) (winSize : Byte) (winOffset evcnt : Half)
  /-- `PROBE`: an inconclusive probe pair is retried. -/
  | probe (retries : Byte)
  deriving DecidableEq, Repr

/-- A response (R103): the status, the fields `RA` and `RB`, result words, result data, event records. A field a rule does not
name is 0 or empty. -/
structure Response where
  status : Status := .ok
  ra : Byte := 0
  rb : Half := 0
  words : List Word := []
  data : List Byte := []
  events : List Event := []
  deriving DecidableEq, Repr

/-- The bytes of one packet buffer: pairs of a byte offset and a byte, offsets strictly rising, none equal to what an unlisted
offset reads as (log 2). The operations on it are in Machine/Ops.lean. -/
abbrev Memory := List Host.Cell

/-- One packet buffer `PB[b]` (R43). -/
structure Buffer where
  tag : Tag
  data : Memory
  len : Half
  ts : Ts
  chan : Byte
  aa : Word
  rssiMin : Byte
  rssiMax : Byte
  rssiSum : Word
  deriving DecidableEq, Repr

/-- One slot of the candidate cache `AC[i]` (R42). -/
structure AcSlot where
  valid : Bool
  aa : Word
  count : Word
  deriving DecidableEq, Repr

/-- One whitening stream context `WHC[g]` (R45). -/
structure WhCtx where
  loaded : Bool
  ch : Byte
  pos : BitVec 7
  deriving DecidableEq, Repr

/-- One request port: the stream of requests issued on it and not yet served, first to be served first, and the responses sent
on it, oldest first (R5, R90, R103; log 3, log 10). -/
structure Port where
  reqs : List Beat
  resps : List Response
  deriving DecidableEq, Repr

/-- The block state `S` and its two ports. A value and its valid flag are two fields, not an option (R48; DESIGN CHOICE, log 9). Each
field names its rule; the last four groups say what is the model's own. -/
structure State where
  /-- `MODE` (R22). -/
  mode : Mode
  /-- `STAGE` (R23). -/
  stage : Stage
  /-- `LSTATE` (R24). -/
  lstate : LState
  /-- `STAGE_TS` (R26). -/
  stageTs : Ts
  /-- `STAGE_TS_VALID` (R26). -/
  stageTsValid : Bool
  /-- `AA` (R27). -/
  aa : Word
  /-- `AA_VALID` (R27). -/
  aaValid : Bool
  /-- `CRC_LFSR` (R28). -/
  crcLfsr : Crc
  /-- `CRC_RAW` (R28). -/
  crcRaw : Crc
  /-- `CRC_VERIFIED` (R28). -/
  crcVerified : Bool
  /-- `CRC_VERIFY` (R29). -/
  crcVerify : Bool
  /-- `HOPINC` (R30). -/
  hopinc : Byte
  /-- `HOPINC_VALID` (R30). -/
  hopincValid : Bool
  /-- `CHAN` (R31). -/
  chan : Byte
  /-- `DISC_CHAN` (R31). -/
  discChan : Byte
  /-- `INTERVAL` (R32). -/
  interval : Half
  /-- `INTERVAL_VALID` (R32). -/
  intervalValid : Bool
  /-- `WIN_SIZE` (R33). -/
  winSize : Byte
  /-- `WIN_OFFSET` (R33). -/
  winOffset : Half
  /-- `EVCNT` (R34). -/
  evcnt : Half
  /-- `LAST_PKT_TS` (R35). -/
  lastPktTs : Ts
  /-- `EPOCH_TS` (R36). -/
  epochTs : Ts
  /-- `UPD_PENDING` (R37). -/
  updPending : Bool
  /-- `UPD_WIN_SIZE` (R37). -/
  updWinSize : Byte
  /-- `UPD_WIN_OFFSET` (R37). -/
  updWinOffset : Half
  /-- `UPD_INTERVAL` (R37). -/
  updInterval : Half
  /-- `UPD_INSTANT` (R37). -/
  updInstant : Half
  /-- `HI_SMALLEST` (R38). -/
  hiSmallest : Ts
  /-- `HI_MATCH` (R38). -/
  hiMatch : Byte
  /-- `HI_EST` (R38). -/
  hiEst : Half
  /-- `HI_PREV_TS` (R38). -/
  hiPrevTs : Ts
  /-- `HP_FIRST_TS` (R39). -/
  hpFirstTs : Ts
  /-- `HP_FIRST_VALID` (R39). -/
  hpFirstValid : Bool
  /-- `HP_RETRIES` (R39). -/
  hpRetries : Byte
  /-- `FILT_ADDR` (R40). -/
  filtAddr : Addr48
  /-- `FILT_MASK` (R40). -/
  filtMask : Addr48
  /-- `DISC_TIMEOUT` (R41). -/
  discTimeout : Ts
  /-- `RECOV_TIMEOUT` (R41). -/
  recovTimeout : Ts
  /-- `CONN_TIMEOUT` (R41). -/
  connTimeout : Ts
  /-- `AC[0..31]` (R42). -/
  ac : Vector AcSlot 32
  /-- `PB[0..3]` (R43). -/
  pb : Vector Buffer 4
  /-- `PBQ` (R43). -/
  pbq : List (Fin 4)
  /-- `DISCARDS` (R43). -/
  discards : Word
  /-- `RT_PENDING` (R44). -/
  rtPending : Bool
  /-- `RT_CHAN` (R44). -/
  rtChan : Byte
  /-- `WHC[CAP]` (R45). -/
  whCap : WhCtx
  /-- `WHC[PROC]` (R45). -/
  whProc : WhCtx
  /-- The port of `CAP` (R5). -/
  capPort : Port
  /-- The port of `PROC` (R5). -/
  procPort : Port
  /-- The model's own: the agent whose request is being served, known from the port it arrived on (R100; log 11). -/
  agent : Agent
  /-- The model's own: the schedule that U5 lets a model take as an argument, used when both ports hold a request (log 4). -/
  arbPlan : List Agent
  /-- The model's own: the index of the next value of `Config.arbiter` (log 4). -/
  arbSeq : Nat
  /-- The model's own: the implementation parameters of R10, which a model takes as arguments; nothing writes them (log 7). -/
  params : Params
  deriving DecidableEq, Repr

/-- Why the machine stops. No operation of the block stops it: every status is an answer (R300, R304, R366). -/
inductive Fault where
  /-- Raised by `step` alone, when the stream on the port to be served does not begin with a whole request: "the block is not
  defined on a mis-framed stream" (R101), which U4 puts outside the model. SAFE: the model stops where the hardware would go on
  with some request (log 5). -/
  | misframed (why : FrameError)
  deriving DecidableEq, Repr

/-- The refusals. -/
inductive Refusal where
  /-- Raised by an arm of `exec` whose operation has no meaning yet; every operation of this model has one, so nothing raises it.
  SAFE: the model stops where the hardware would answer. -/
  | notModelled (mnemonic : String)
  deriving DecidableEq, Repr

/-- The whitening context at reset: not loaded; `ch` and `pos` unspecified (R45, R341), 0 by log 1. -/
def WhCtx.reset : WhCtx := { loaded := false, ch := 0, pos := 0 }

/-- A cache slot at reset: not valid; `aa` and `count` unspecified (R42, R341), 0 by log 1. -/
def AcSlot.reset : AcSlot := { valid := false, aa := 0, count := 0 }

/-- A packet buffer at reset: `FREE`; everything else unspecified (R43, R341), 0 by log 1 and nothing listed by log 2. -/
def Buffer.reset : Buffer :=
  { tag := .free, data := [], len := 0, ts := 0, chan := 0, aa := 0, rssiMin := 0, rssiMax := 0, rssiSum := 0 }

/-- A port at reset: nothing requested, nothing answered (R340). -/
def Port.reset : Port := { reqs := [], resps := [] }

/-- The machine right after reset, the power cycle (R64, R340, R341). An element the rules call unspecified is 0
(DESIGN CHOICE, unsafe, log 1). `CONN_TIMEOUT` is `4000 * TICKS_PER_UNIT` (R41) modulo 2^32: no rule bounds `TICKS_PER_UNIT` from above
or says what the element holds where the product does not fit its 32 bits (DESIGN CHOICE, unsafe, log 23). -/
def State.reset : State :=
  { mode := .off
    stage := .idle
    lstate := .inactive
    stageTs := 0
    stageTsValid := false
    aa := 0
    aaValid := false
    crcLfsr := 0
    crcRaw := 0
    crcVerified := false
    crcVerify := false
    hopinc := 0
    hopincValid := false
    chan := 37#8
    discChan := 37#8
    interval := 0
    intervalValid := false
    winSize := 0
    winOffset := 0
    evcnt := 0
    lastPktTs := 0
    epochTs := 0
    updPending := false
    updWinSize := 0
    updWinOffset := 0
    updInterval := 0
    updInstant := 0
    hiSmallest := 0xFFFFFFFF#32
    hiMatch := 0
    hiEst := 0
    hiPrevTs := 0
    hpFirstTs := 0
    hpFirstValid := false
    hpRetries := 0
    filtAddr := 0
    filtMask := 0
    discTimeout := 0
    recovTimeout := 0
    connTimeout := BitVec.ofNat 32 (Config.connTimeoutUnits * Config.params.ticksPerUnit)
    ac := Vector.replicate 32 AcSlot.reset
    pb := Vector.replicate 4 Buffer.reset
    pbq := []
    discards := 0
    rtPending := false
    rtChan := 0
    whCap := WhCtx.reset
    whProc := WhCtx.reset
    capPort := Port.reset
    procPort := Port.reset
    agent := .cap
    arbPlan := []
    arbSeq := 0
    params := Config.params }

end Sys2Proof.Machine
end

