-- ==== Sys2Proof/Machine/Operands.lean ====
section
/-! DEFINITION. The primitives of the rules' pseudocode (00_scope.md rules R12, R13), the operand forms (30_encoding.md rule R106),
bit and byte order (20_memory.md rules R80 to R83), and the numbers a response carries (R103, R301, R311). -/

namespace Sys2Proof.Machine

/-! ### Bits and bytes -/

/-- The bits of a byte in protocol order, bit 0 first (R12, R80). -/
def byteBits (b : Byte) : List Bool := (List.range 8).map fun j => b.getLsbD j

/-- The bits of a byte in receive order, bit 7 first (R12, R81). -/
def receiveBits (b : Byte) : List Bool := (List.range 8).map fun j => b.getLsbD (7 - j)

/-- The number whose bit `k` is entry `k` of a bit list. -/
def bitsVal : List Bool → Nat
  | [] => 0
  | b :: bs => b.toNat + 2 * bitsVal bs

/-- The byte whose bit `j` is entry `j` of a bit list of 8. -/
def byteOf (bs : List Bool) : Byte := BitVec.ofNat 8 (bitsVal bs)

/-- `rev8` (R13): bit `i` of the result is bit `7 - i`. -/
def rev8 (b : Byte) : Byte := b.reverse

/-- `rev24` (R13, R167): bit `i` of the result is bit `23 - i`. -/
def rev24 (v : Crc) : Crc := v.reverse

/-- `le24` (R13, R83): the first byte is the least significant. -/
def le24 (b0 b1 b2 : Byte) : Crc := (b2 ++ (b1 ++ b0) : BitVec (8 + (8 + 8)))

/-- `le32` (R13, R83): the first byte is the least significant. -/
def le32 (b0 b1 b2 b3 : Byte) : Word := (b3 ++ (b2 ++ (b1 ++ b0)) : BitVec (8 + (8 + (8 + 8))))

/-! ### Arithmetic -/

/-- `rdiv(a, b)` (R13): division rounded to nearest, halves up. R13 defines it for `b > 0`; at `b = 0` it is a free value
(DESIGN CHOICE, safe, log 13). -/
def rdiv (a b : Nat) : Nat := if b = 0 then Config.rdivByZero a else (a + b / 2) / b

/-- `tdiff(a, b)` (R13): ticks from `b` to `a`, modulo `2^TS_W`. -/
def tdiff (a b : Ts) : Ts := a - b

/-- Saturating increment of a 32-bit counter: `min(v + 1, 2^32 - 1)` (R182, R210). -/
def satSucc (v : Word) : Word := BitVec.ofNat 32 (min (v.toNat + 1) (2 ^ 32 - 1))

/-- The running sum of samples: `clamp(sum + sample, -2^31, 2^31 - 1)` on two's-complement numbers (R184). -/
def satAdd (sum : Word) (sample : Byte) : Word :=
  BitVec.ofInt 32 (max (-2 ^ 31) (min (sum.toInt + sample.toInt) (2 ^ 31 - 1)))

/-- The smaller of two signed bytes (R184). -/
def minSigned (a b : Byte) : Byte := if a.toInt ≤ b.toInt then a else b

/-- The larger of two signed bytes (R184). -/
def maxSigned (a b : Byte) : Byte := if a.toInt ≤ b.toInt then b else a

/-! ### Operand forms -/

/-- A packet buffer index operand: in 0..3, or out of the domain (R181). -/
def bufIndex (buf : Byte) : Option (Fin 4) := if h : buf.toNat < 4 then some ⟨buf.toNat, h⟩ else none

/-- A cache slot operand: in 0..31, or out of the domain (R218). -/
def slotIndex (slot : Byte) : Option (Fin 32) := if h : slot.toNat < 32 then some ⟨slot.toNat, h⟩ else none

/-- Whether a byte string is longer than `DATA_MAX` (R10, R107). -/
def tooLong (d : List Byte) : Bool := decide (Config.dataMax < d.length)

/-- Whether a channel index is out of 0..39 (R107). -/
def badChan (ch : Byte) : Bool := decide (Config.maxChan < ch.toNat)

/-- A number as a result byte. -/
def toByte (n : Nat) : Byte := BitVec.ofNat 8 n

/-- A number as a 16-bit result field. -/
def toHalf (n : Nat) : Half := BitVec.ofNat 16 n

/-- A number as a result word. -/
def toWord (n : Nat) : Word := BitVec.ofNat 32 n

/-- A bit as a number. -/
def bit (b : Bool) : Nat := if b then 1 else 0

/-- A channel index reduced to the data channels: `n mod 37` (R133, R275, R283). -/
def dataChan (n : Nat) : Byte := toByte (n % Config.nData)

/-! ### The numbers behind the names -/

/-- The code of `MODE` (R22). -/
def Mode.code : Mode → Nat
  | .off => 0
  | .promisc => 1
  | .follow => 2

/-- The code of `STAGE` (R23). -/
def Stage.code : Stage → Nat
  | .idle => 0
  | .discovery => 1
  | .crcRecovery => 2
  | .hopIntervalRecovery => 3
  | .hopIncrementRecovery => 4
  | .connectionFollow => 5

/-- The code of `LSTATE` (R24). -/
def LState.code : LState → Nat
  | .inactive => 0
  | .listening => 1
  | .connPending => 2
  | .connected => 3

/-- The code of an owner tag (R43). -/
def Tag.code : Tag → Nat
  | .free => 0
  | .capturing => 1
  | .queued => 2

/-- The code of a status (R301). -/
def Status.code : Status → Byte
  | .ok => 0x00#8
  | .range => 0x01#8
  | .illegal => 0x02#8
  | .perm => 0x03#8
  | .badState => 0x04#8
  | .badTag => 0x05#8
  | .noBuf => 0x06#8
  | .empty => 0x07#8
  | .malformed => 0x08#8
  | .notLoaded => 0x09#8

/-- The `source` number of an `AA` event (R311). -/
def AaSource.code : AaSource → Byte
  | .promoted => 0
  | .operator => 1
  | .request => 2

/-- The `reason` number of a `RESEED` event (R236). -/
def ReseedReason.code : ReseedReason → Byte
  | .command => 0
  | .discoveryTimeout => 1
  | .recoveryTimeout => 2
  | .probesExhausted => 3
  | .inactivity => 4
  | .cancel => 5

/-- The `which` number of a `TIMEOUT` event (R311). -/
def TimeoutKind.code : TimeoutKind → Byte
  | .discovery => 0
  | .recovery => 1
  | .inactivity => 2

/-- The byte of the triple in a `STAGE` event: the link state in bits 6:5, the stage in 4:2, the mode in 1:0 (R311). -/
def tripleByte (m : Mode) (st : Stage) (l : LState) : Byte := toByte (l.code * 32 + st.code * 4 + m.code)

/-! ### The form of a response -/

/-- An event record of three words: `P16`, `P8` and `CODE` in the first, then `P32a`, `P32b` (R103, R311). -/
def record (code p8 : Byte) (p16 : Half) (p32a p32b : Word) : List Word :=
  [(p16 ++ (p8 ++ code) : BitVec (16 + (8 + 8))), p32a, p32b]

/-- The three words of an event (R311). -/
def Event.record : Event → List Word
  | .aa a src => Machine.record 0x01#8 src.code 0 a 0
  | .crc raw lfsr => Machine.record 0x02#8 0 0 (raw.setWidth 32) (lfsr.setWidth 32)
  | .interval v => Machine.record 0x03#8 0 v 0 0
  | .hopinc v => Machine.record 0x04#8 v 0 0 0
  | .stage m st l => Machine.record 0x05#8 (tripleByte m st l) 0 0 0
  | .reseed r => Machine.record 0x06#8 r.code 0 0 0
  | .timeout k el => Machine.record 0x07#8 k.code 0 el 0
  | .packet b valid checked a ts =>
    Machine.record 0x08#8 (toByte b.val) (toHalf (2 * bit checked + bit valid)) a ts
  | .cand pos a e4 e5 => Machine.record 0x09#8 0 pos a ((0#16 ++ (e5 ++ e4) : BitVec (16 + (8 + 8))))
  | .update iv ws wo ev => Machine.record 0x0A#8 ws iv (wo.setWidth 32) (ev.setWidth 32)
  | .probe n => Machine.record 0x0B#8 n 0 0 0

/-- The status word `SW`: `STATUS` in bits 7:0, `RA` in 15:8, `RB` in 31:16 (R103). -/
def Response.statusWord (r : Response) : Word := (r.rb ++ (r.ra ++ r.status.code) : BitVec (16 + (8 + 8)))

/-- A response as it travels: the status word, the result words, the result data, the number of event records and the records
(R103). -/
def Response.beats (r : Response) : List Beat :=
  .word r.statusWord ::
    (r.words.map .word ++ (r.data.map .byte ++
      (.word (toWord r.events.length) :: (r.events.flatMap Event.record).map .word)))

end Sys2Proof.Machine
end

