-- ==== Sys2Proof/Machine/Flags.lean ====
section
/-! DEFINITION. The flags: how operations compute, pack and report the one-bit elements (10_state.md rules R47, R48). -/

namespace Sys2Proof.Machine

/-- "`X or 0`": a guarded value in a report, 0 while its flag is 0 (R48, R255). -/
def orZero {w : Nat} (valid : Bool) (v : BitVec w) : BitVec w := if valid then v else 0

/-- `RB` of `AC_SEE`: promoted in bit 0, evicted in bit 1, inserted in bit 2 (R212). -/
def seeFlags (promoted evicted inserted : Bool) : Half := toHalf (bit promoted + 2 * bit evicted + 4 * bit inserted)

/-- `RA` of `PB_STAT`: the tag of buffer `b` in bits `2b+1:2b` (R190). -/
def tagByte (t0 t1 t2 t3 : Tag) : Byte := toByte (t0.code + 4 * t1.code + 16 * t2.code + 64 * t3.code)

/-- `W3` of `PB_READ`: the channel in bits 7:0, `rssi_min` in 15:8, `rssi_max` in 23:16, 0 above (R188). -/
def rssiWord (chan rssiMin rssiMax : Byte) : Word := (0#8 ++ (rssiMax ++ (rssiMin ++ chan)) : BitVec (8 + (8 + (8 + 8))))

/-- Bits 15:0 of `W1` of `PR_GET` (R255): `UPD_PENDING` in bit 13, `HOPINC_VALID` 12, `INTERVAL_VALID` 11, `CRC_VERIFY` 10,
`CRC_VERIFIED` 9, `AA_VALID` 8, `LSTATE` 6:5, `STAGE` 4:2, `MODE` 1:0. -/
def flagHalf (s : State) : Half :=
  toHalf (bit s.updPending * 2 ^ 13 + bit s.hopincValid * 2 ^ 12 + bit s.intervalValid * 2 ^ 11 + bit s.crcVerify * 2 ^ 10 +
    bit s.crcVerified * 2 ^ 9 + bit s.aaValid * 2 ^ 8 + s.lstate.code * 2 ^ 5 + s.stage.code * 2 ^ 2 + s.mode.code)

/-- `W1` of `PR_GET`: `HOPINC or 0` in bits 31:24, `CHAN` in 23:16, the flags below (R255). -/
def stateWord (s : State) : Word :=
  (orZero s.hopincValid s.hopinc ++ (s.chan ++ flagHalf s) : BitVec (8 + (8 + 16)))

/-- Whether the current stage's timestamps are meaningful: only in `ConnectionFollow` (R255). -/
def following (s : State) : Bool := s.stage == .connectionFollow

/-- `AC[j].count > AC_PROMOTE` (R210). -/
def exceedsPromote (count : Word) : Bool := decide (Config.acPromote < count.toNat)

end Sys2Proof.Machine
end

