-- ==== Sys2Proof/Machine/Rights.lean ====
section
/-! DEFINITION. Which agent may issue which operation (60_exceptions.md rules R320, R321). -/

namespace Sys2Proof.Machine

/-- The agents an operation admits (R321). -/
inductive Rights where
  | both
  | capOnly
  | procOnly
  deriving DecidableEq, Repr

/-- Whether an agent is among them. -/
def Rights.allows : Rights → Agent → Bool
  | .both, _ => true
  | .capOnly, g => g == .cap
  | .procOnly, g => g == .proc

/-- The table of R321, operation by operation. -/
def rights : Op → Rights
  | .cmI2f => .both
  | .cmF2i => .both
  | .cmAdv => .both
  | .cmHop => .both
  | .whLoad => .both
  | .whStep => .both
  | .whXor => .both
  | .whXors => .both
  | .whRefl => .both
  | .crcFwd => .both
  | .crcFwdt => .both
  | .crcRev => .both
  | .crcRev24 => .both
  | .crcChk => .both
  | .pbAcq => .capOnly
  | .pbWrite => .capOnly
  | .pbRssi => .capOnly
  | .pbCommit => .capOnly
  | .pbAbort => .capOnly
  | .pbPoll => .procOnly
  | .pbRead => .procOnly
  | .pbRel => .both
  | .pbStat => .both
  | .acClear => .procOnly
  | .acSee => .procOnly
  | .acScan => .procOnly
  | .acGet => .procOnly
  | .prStart => .procOnly
  | .prStop => .procOnly
  | .prPkt => .procOnly
  | .tick => .procOnly
  | .prReseed => .procOnly
  | .prGet => .procOnly
  | .prSetaa => .procOnly
  | .prGetaa => .procOnly
  | .prSetcv => .procOnly
  | .prGetcv => .procOnly
  | .prSetto => .procOnly
  | .lsFollow => .procOnly
  | .lsStop => .procOnly
  | .lsFilter => .procOnly
  | .lsConnreq => .procOnly
  | .lsUpdate => .procOnly
  | .lsEvent => .capOnly
  | .lsCancel => .procOnly
  | .rtTake => .capOnly

/-- The port a request must arrive on to be served and not refused with `PERM`: `CAP`'s for the operations of `CAP` alone, else
`PROC`'s (R321; used by `State.withFetchWord`, log 12). -/
def issuer (op : Op) : Agent :=
  match rights op with
  | .capOnly => .cap
  | .procOnly => .proc
  | .both => .proc

end Sys2Proof.Machine
end

