-- ==== Sys2Proof/Machine/Ops.lean ====
section
/-! DEFINITION. The named operations over the state: answering on a port and raising a status (the block's only exception,
60_exceptions.md rules R300 to R304), rights, buffer memory (20_memory.md rules R73 to R75), the buffer pool's tags, the whitening
contexts, the retune mailbox and the clearing functions the families share. -/

namespace Sys2Proof.Machine

/-- The outcome of one operation of the block. -/
abbrev Result := Host.Outcome State Fault Refusal

/-! ### Ports, answers and statuses -/

/-- The port of an agent (R5). -/
def State.port (s : State) (g : Agent) : Port :=
  match g with
  | .cap => s.capPort
  | .proc => s.procPort

/-- Replace the port of an agent. -/
def State.setPort (s : State) (g : Agent) (p : Port) : State :=
  { s with
    capPort := if g = .cap then p else s.capPort
    procPort := if g = .proc then p else s.procPort }

/-- Send a response on the port whose request is being served (R103, R310: it goes to the agent whose request caused it). -/
def State.answer (s : State) (r : Response) : State :=
  s.setPort s.agent { s.port s.agent with resps := (s.port s.agent).resps ++ [r] }

/-- The response of an operation that raised: the status alone, `RA = RB = 0`, no results, no events (R103, R300, R301). -/
def errorResponse (st : Status) : Response := { status := st }

/-- `raise X` (R300): THE exception of the block, one shared operation. It ends the operation with status `X`; nothing is saved, no
mode changes, nothing masks or latches, and there is no return operation (R304). The state given is the state the raise leaves:
the state before the operation but for the two writes R300 lets stand. -/
def raise (s : State) (st : Status) : Result := .next (s.answer (errorResponse st))

/-- `return (fields)` (R13, R103): the operation ends with status `OK`. -/
def reply (s : State) (r : Response) : Result := .next (s.answer r)

/-- The rights check, made before every check of the operation itself (R302, R321): the wrong agent gets `PERM` and nothing is
written. -/
def served (op : Op) (s : State) (k : Result) : Result :=
  if (rights op).allows s.agent then k else raise s .perm

/-! ### Buffer memory -/

/-- What an unlisted offset reads as: the spec gives such a byte no value and no rule reads it (R74); the model's choice
(DESIGN CHOICE, unsafe, log 2). -/
def unwritten : Byte := 0

/-- The byte of a buffer at an offset. -/
def Memory.read : Memory → Nat → Byte
  | [], _ => unwritten
  | (k, v) :: m, a => if k = a then v else Memory.read m a

/-- Put a cell at its place in the rising list, replacing one at the same offset. -/
def Memory.insert (a : Nat) (v : Byte) : Memory → Memory
  | [] => [(a, v)]
  | (k, w) :: m => if a < k then (a, v) :: (k, w) :: m else if a = k then (a, v) :: m else (k, w) :: Memory.insert a v m

/-- Take the cell of an offset out of the list. -/
def Memory.erase (a : Nat) : Memory → Memory
  | [] => []
  | (k, w) :: m => if a = k then m else (k, w) :: Memory.erase a m

/-- Write one byte, keeping the canonical form: the value an unlisted offset reads as is not listed. -/
def Memory.write (m : Memory) (a : Nat) (v : Byte) : Memory :=
  if v = unwritten then Memory.erase a m else Memory.insert a v m

/-- Whether every offset of a list of cells is above `lo`, rising, and no cell holds the unlisted value. -/
def Memory.risingFrom : Nat → Memory → Bool
  | _, [] => true
  | lo, (k, v) :: m => decide (lo ≤ k) && decide (v ≠ unwritten) && Memory.risingFrom (k + 1) m

/-- The canonical form: offsets strictly rising, no entry equal to what an unlisted offset reads as. -/
def Memory.wf (m : Memory) : Bool := Memory.risingFrom 0 m

/-- `MemWrite(b, off, n, v)` on one buffer's bytes (R75). -/
def Memory.writeAll (m : Memory) (off : Nat) : List Byte → Memory
  | [] => m
  | v :: vs => Memory.writeAll (m.write off v) (off + 1) vs

/-- `MemRead(b, off, n)` on one buffer's bytes (R74). -/
def Memory.readAll (m : Memory) (off : Nat) : Nat → List Byte
  | 0 => []
  | n + 1 => m.read off :: Memory.readAll m (off + 1) n

/-! ### The buffer pool -/

/-- Replace buffer `b`. -/
def State.setBuf (s : State) (b : Fin 4) (p : Buffer) : State := { s with pb := s.pb.set b p }

/-- `S.PB[b].tag <- t`. -/
def State.setTag (s : State) (b : Fin 4) (t : Tag) : State := s.setBuf b { s.pb[b] with tag := t }

/-- The lowest buffer index with a tag (R181, R182). -/
def State.findTag (s : State) (t : Tag) : Option (Fin 4) := (List.finRange 4).find? fun b => s.pb[b].tag == t

/-- The capturing buffer `cap(S)`, when there is one (R181). R191 makes it the only one (log 17). -/
def State.capturing (s : State) : Option (Fin 4) := s.findTag .capturing

/-- The valid bytes of a buffer: `MemRead(b, 0, len)` (R74). -/
def Buffer.bytes (p : Buffer) : List Byte := p.data.readAll 0 p.len.toNat

/-- The declared length in byte 1 of a body: `data[1] and LEN_MASK` (R183, R185). -/
def declared (ps : Params) (byte1 : Byte) : Nat := (byte1 &&& ps.lenMask).toNat

/-- Free buffer `b` and raise `MALFORMED`: the write of the tag stands (R183, R185, R300). -/
def dropMalformed (s : State) (b : Fin 4) : Result := raise (s.setTag b .free) .malformed

/-! ### Whitening contexts -/

/-- The stream context of the agent being served (R45: an operation reads and writes only its issuer's). -/
def State.whc (s : State) : WhCtx :=
  match s.agent with
  | .cap => s.whCap
  | .proc => s.whProc

/-- Write the stream context of the agent being served (R45). -/
def State.setWhc (s : State) (c : WhCtx) : State :=
  { s with
    whCap := if s.agent = .cap then c else s.whCap
    whProc := if s.agent = .proc then c else s.whProc }

/-! ### The candidate cache -/

/-- Replace cache slot `j`. -/
def State.setSlot (s : State) (j : Fin 32) (e : AcSlot) : State := { s with ac := s.ac.set j e }

/-- Clear the 32 valid bits (R211, R234). -/
def State.clearCache (s : State) : State := { s with ac := s.ac.map fun e => { e with valid := false } }

/-! ### Sequencing and the mailbox -/

/-- `S.CHAN <- c; post_retune(S, c)` (R31, R292: every write of `CHAN` also posts). -/
def State.tune (s : State) (c : Byte) : State := { s with chan := c, rtChan := c, rtPending := true }

/-- `if S.CHAN != c then (S.CHAN <- c; post_retune(S, c))` (R233, R236, R248): `CHAN` is `c` afterwards in either case, and the
mailbox is written on a change alone. -/
def State.tuneIfOther (s : State) (c : Byte) : State :=
  { s with
    chan := c
    rtChan := if s.chan = c then s.rtChan else c
    rtPending := if s.chan = c then s.rtPending else true }

/-- Write `MODE`, `LSTATE` and `STAGE` together; the start of the stage's timeout is forgotten with every such change (R26). -/
def State.enter (s : State) (m : Mode) (l : LState) (st : Stage) : State :=
  { s with mode := m, lstate := l, stage := st, stageTsValid := false }

/-- The event that reports the triple (R311). -/
def State.stageEvent (s : State) : Event := .stage s.mode s.stage s.lstate

/-- `forget(S)` (R234). -/
def State.forget (s : State) : State :=
  { s with
    ac := s.ac.map fun e => { e with valid := false }
    aaValid := false
    crcVerified := false
    crcVerify := false
    intervalValid := false
    hopincValid := false
    updPending := false
    evcnt := 0
    winSize := 0
    winOffset := 0
    hiSmallest := 0xFFFFFFFF#32
    hiMatch := 0
    hiEst := 0
    hpFirstValid := false
    hpRetries := 0
    stageTsValid := false }

/-- `reseed(S, reason)`, the state it leaves (R236). -/
def State.reseeded (s : State) : State :=
  (s.forget.enter s.mode .listening .discovery).tuneIfOther s.discChan

/-- The events `reseed(S, reason)` emits (R236). -/
def reseedEvents (s : State) (reason : ReseedReason) : List Event := [.reseed reason, s.reseeded.stageEvent]

/-- `forget(S)`, then `OFF`, `INACTIVE`, `Idle`: what the stop commands do, and in `FOLLOW` mode the inactivity timeout and the
cancel (R232, R272, R288, R290). -/
def State.shutDown (s : State) : State := s.forget.enter .off .inactive .idle

end Sys2Proof.Machine
end

