-- ==== Sys2Proof/Machine/Tables.lean ====
section
/-! DEFINITION. The read-only tables `W`, `WIDX`, `CRCLUT` and `HOPINV` (10_state.md rules R60 to R63; 42_crc.md rule R164). They
are constants and no operation writes them (R94, R341). -/

namespace Sys2Proof.Machine

/-- The contents of `W` (R60): bit `k` of this number is `W[k]`. The bits are the spec's own from general knowledge (G1;
PRESUMED, log 16). -/
def whBits : BitVec 127 := 0x528DC7F0EF2C902262EB60CD4E7B42AF#127

/-- `W[i mod 127]` (R60): the whitening sequence repeats every 127 bits (R140). -/
def whW (i : Nat) : Bool := whBits.getLsbD (i % 127)

/-- The contents of `WIDX` (R61). -/
def whIdxTable : List Nat :=
  [70, 62, 120, 111, 77, 46, 15, 101, 66, 39,
   31, 26, 80, 83, 125, 89, 10, 35, 8, 54,
   122, 17, 33, 0, 58, 115, 6, 94, 86, 49,
   52, 20, 40, 27, 84, 90, 63, 112, 47, 102]

/-- `WIDX[ch]` (R61). -/
def whIdx (ch : Byte) : Nat := whIdxTable.getD ch.toNat 0

/-- `CRCLUT[0..31]` (R164). -/
def crcLutPart0 : List Nat :=
  [0x000000, 0x01B4C0, 0x036980, 0x02DD40, 0x06D300, 0x0767C0, 0x05BA80, 0x040E40,
   0x0DA600, 0x0C12C0, 0x0ECF80, 0x0F7B40, 0x0B7500, 0x0AC1C0, 0x081C80, 0x09A840,
   0x1B4C00, 0x1AF8C0, 0x182580, 0x199140, 0x1D9F00, 0x1C2BC0, 0x1EF680, 0x1F4240,
   0x16EA00, 0x175EC0, 0x158380, 0x143740, 0x103900, 0x118DC0, 0x135080, 0x12E440]

/-- `CRCLUT[32..63]` (R164). -/
def crcLutPart1 : List Nat :=
  [0x369800, 0x372CC0, 0x35F180, 0x344540, 0x304B00, 0x31FFC0, 0x332280, 0x329640,
   0x3B3E00, 0x3A8AC0, 0x385780, 0x39E340, 0x3DED00, 0x3C59C0, 0x3E8480, 0x3F3040,
   0x2DD400, 0x2C60C0, 0x2EBD80, 0x2F0940, 0x2B0700, 0x2AB3C0, 0x286E80, 0x29DA40,
   0x207200, 0x21C6C0, 0x231B80, 0x22AF40, 0x26A100, 0x2715C0, 0x25C880, 0x247C40]

/-- `CRCLUT[64..95]` (R164). -/
def crcLutPart2 : List Nat :=
  [0x6D3000, 0x6C84C0, 0x6E5980, 0x6FED40, 0x6BE300, 0x6A57C0, 0x688A80, 0x693E40,
   0x609600, 0x6122C0, 0x63FF80, 0x624B40, 0x664500, 0x67F1C0, 0x652C80, 0x649840,
   0x767C00, 0x77C8C0, 0x751580, 0x74A140, 0x70AF00, 0x711BC0, 0x73C680, 0x727240,
   0x7BDA00, 0x7A6EC0, 0x78B380, 0x790740, 0x7D0900, 0x7CBDC0, 0x7E6080, 0x7FD440]

/-- `CRCLUT[96..127]` (R164). -/
def crcLutPart3 : List Nat :=
  [0x5BA800, 0x5A1CC0, 0x58C180, 0x597540, 0x5D7B00, 0x5CCFC0, 0x5E1280, 0x5FA640,
   0x560E00, 0x57BAC0, 0x556780, 0x54D340, 0x50DD00, 0x5169C0, 0x53B480, 0x520040,
   0x40E400, 0x4150C0, 0x438D80, 0x423940, 0x463700, 0x4783C0, 0x455E80, 0x44EA40,
   0x4D4200, 0x4CF6C0, 0x4E2B80, 0x4F9F40, 0x4B9100, 0x4A25C0, 0x48F880, 0x494C40]

/-- `CRCLUT[128..159]` (R164). -/
def crcLutPart4 : List Nat :=
  [0xDA6000, 0xDBD4C0, 0xD90980, 0xD8BD40, 0xDCB300, 0xDD07C0, 0xDFDA80, 0xDE6E40,
   0xD7C600, 0xD672C0, 0xD4AF80, 0xD51B40, 0xD11500, 0xD0A1C0, 0xD27C80, 0xD3C840,
   0xC12C00, 0xC098C0, 0xC24580, 0xC3F140, 0xC7FF00, 0xC64BC0, 0xC49680, 0xC52240,
   0xCC8A00, 0xCD3EC0, 0xCFE380, 0xCE5740, 0xCA5900, 0xCBEDC0, 0xC93080, 0xC88440]

/-- `CRCLUT[160..191]` (R164). -/
def crcLutPart5 : List Nat :=
  [0xECF800, 0xED4CC0, 0xEF9180, 0xEE2540, 0xEA2B00, 0xEB9FC0, 0xE94280, 0xE8F640,
   0xE15E00, 0xE0EAC0, 0xE23780, 0xE38340, 0xE78D00, 0xE639C0, 0xE4E480, 0xE55040,
   0xF7B400, 0xF600C0, 0xF4DD80, 0xF56940, 0xF16700, 0xF0D3C0, 0xF20E80, 0xF3BA40,
   0xFA1200, 0xFBA6C0, 0xF97B80, 0xF8CF40, 0xFCC100, 0xFD75C0, 0xFFA880, 0xFE1C40]

/-- `CRCLUT[192..223]` (R164). -/
def crcLutPart6 : List Nat :=
  [0xB75000, 0xB6E4C0, 0xB43980, 0xB58D40, 0xB18300, 0xB037C0, 0xB2EA80, 0xB35E40,
   0xBAF600, 0xBB42C0, 0xB99F80, 0xB82B40, 0xBC2500, 0xBD91C0, 0xBF4C80, 0xBEF840,
   0xAC1C00, 0xADA8C0, 0xAF7580, 0xAEC140, 0xAACF00, 0xAB7BC0, 0xA9A680, 0xA81240,
   0xA1BA00, 0xA00EC0, 0xA2D380, 0xA36740, 0xA76900, 0xA6DDC0, 0xA40080, 0xA5B440]

/-- `CRCLUT[224..255]` (R164). -/
def crcLutPart7 : List Nat :=
  [0x81C800, 0x807CC0, 0x82A180, 0x831540, 0x871B00, 0x86AFC0, 0x847280, 0x85C640,
   0x8C6E00, 0x8DDAC0, 0x8F0780, 0x8EB340, 0x8ABD00, 0x8B09C0, 0x89D480, 0x886040,
   0x9A8400, 0x9B30C0, 0x99ED80, 0x985940, 0x9C5700, 0x9DE3C0, 0x9F3E80, 0x9E8A40,
   0x972200, 0x9696C0, 0x944B80, 0x95FF40, 0x91F100, 0x9045C0, 0x929880, 0x932C40]

/-- `CRCLUT[i]` (R62, R164). -/
def crcLut (i : Byte) : Crc :=
  BitVec.ofNat 24
    ((crcLutPart0 ++ crcLutPart1 ++ crcLutPart2 ++ crcLutPart3 ++
      crcLutPart4 ++ crcLutPart5 ++ crcLutPart6 ++ crcLutPart7).getD i.toNat 0)

/-- The contents of `HOPINV`, entry 0 the marker `NONE` (R63). -/
def hopInvTable : List (Option Nat) :=
  none ::
  [1, 19, 25, 28, 15, 31, 16, 14, 33, 26, 27, 34, 20, 8, 5, 7, 24, 35,
   2, 13, 30, 32, 29, 17, 3, 10, 11, 4, 23, 21, 6, 22, 9, 12, 18, 36].map some

/-- `HOPINV[k]` (R63). -/
def hopInv (k : Nat) : Option Nat := hopInvTable.getD k none

end Sys2Proof.Machine
end

