-- ==== Sys2Proof/Machine/Whitening.lean ====
section
/-! DEFINITION. The Whitening Engine operations (41_whitening.md rules R140 to R148). -/

namespace Sys2Proof.Machine

/-- `wbit(ch, k)` (R140): the whitening bit of a channel at a bit position. -/
def wbit (ch : Byte) (k : Nat) : Bool := whW (whIdx ch + k)

/-- The `n` sequence bits from table position `pos`, the first in bit 0 (R144). -/
def seqBits (pos n : Nat) : Nat := bitsVal ((List.range n).map fun k => whW (pos + k))

/-- The mask byte from table position `pos`: bit `j` is the sequence bit `pos + j` (R145, R146). -/
def maskAt (pos : Nat) : Byte := BitVec.ofNat 8 (seqBits pos 8)

/-- XOR a byte string with the sequence from table position `pos` on, 8 bits a byte (R145, R146). -/
def whiten (pos : Nat) : List Byte → List Byte
  | [] => []
  | d :: ds => (d ^^^ maskAt pos) :: whiten (pos + 8) ds

/-- A stream position advanced by `n` bits (R143, R144, R146). -/
def advance (pos n : Nat) : BitVec 7 := BitVec.ofNat 7 ((pos + n) % Config.whLen)

/-- `WH_LOAD` (R143). -/
def execWhLoad (ch : Byte) (start : Half) (s : State) : Result :=
  served .whLoad s <|
    if badChan ch then raise s .range
    else reply (s.setWhc { loaded := true, ch := ch, pos := advance (whIdx ch) start.toNat }) {}

/-- `WH_STEP` (R144). -/
def execWhStep (nbits : Byte) (s : State) : Result :=
  served .whStep s <|
    if nbits.toNat < 1 ∨ 32 < nbits.toNat then raise s .range
    else if s.whc.loaded = false then raise s .notLoaded
    else reply (s.setWhc { s.whc with pos := advance s.whc.pos.toNat nbits.toNat })
      { words := [toWord (seqBits s.whc.pos.toNat nbits.toNat)] }

/-- `WH_XOR` (R145); no stream context is read or written. -/
def execWhXor (ch : Byte) (start : Half) (data : List Byte) (s : State) : Result :=
  served .whXor s <|
    if badChan ch || tooLong data then raise s .range
    else reply s { rb := toHalf data.length, data := whiten (whIdx ch + start.toNat) data }

/-- `WH_XORS` (R146). -/
def execWhXors (data : List Byte) (s : State) : Result :=
  served .whXors s <|
    if tooLong data then raise s .range
    else if s.whc.loaded = false then raise s .notLoaded
    else reply (s.setWhc { s.whc with pos := advance s.whc.pos.toNat (8 * data.length) })
      { rb := toHalf data.length, data := whiten s.whc.pos.toNat data }

/-- `WH_REFL` (R148): the bits of each byte are reversed, the byte sequence is kept. -/
def execWhRefl (data : List Byte) (s : State) : Result :=
  served .whRefl s <|
    if tooLong data then raise s .range
    else reply s { rb := toHalf data.length, data := data.map rev8 }

/-! ### The generator behind the table -/

/-- The seven positions `p0 .. p6` of the register of R141, `p0` in bit 0. -/
abbrev Lfsr := BitVec 7

/-- The seed of a channel (R141): `p0 = 1`, `p1 .. p6` the bits 5 down to 0 of the channel index. -/
def lfsrSeed (ch : Byte) : Lfsr :=
  BitVec.ofNat 7 (bitsVal (true :: (List.range 6).map fun j => ch.getLsbD (5 - j)))

/-- The output bit of a step: `p6` (R141). -/
def lfsrOut (r : Lfsr) : Bool := r.getLsbD 6

/-- One step (R141): every position moves up one, `p6` enters `p0` and is XOR-ed into `p4`. -/
def lfsrStep (r : Lfsr) : Lfsr :=
  BitVec.ofNat 7 (bitsVal
    [r.getLsbD 6, r.getLsbD 0, r.getLsbD 1, r.getLsbD 2, r.getLsbD 3 ^^ r.getLsbD 6, r.getLsbD 4, r.getLsbD 5])

/-- The register after `k` steps from a channel's seed (R141). -/
def lfsrAfter (ch : Byte) : Nat → Lfsr
  | 0 => lfsrSeed ch
  | k + 1 => lfsrStep (lfsrAfter ch k)

/-- The byte-register form of the generator, seeded: `rev8(ch) or 2` (R141). -/
def byteLfsrSeed (ch : Byte) : Byte := rev8 ch ||| 2#8

/-- The output bit of a step of the byte-register form (R141). -/
def byteLfsrOut (c : Byte) : Bool := c.getLsbD 7

/-- One step of the byte-register form (R141). -/
def byteLfsrStep (c : Byte) : Byte := (if c.getLsbD 7 then c ^^^ 0x11#8 else c) <<< 1

/-- The byte register after `k` steps from a channel's seed (R141). -/
def byteLfsrAfter (ch : Byte) : Nat → Byte
  | 0 => byteLfsrSeed ch
  | k + 1 => byteLfsrStep (byteLfsrAfter ch k)

end Sys2Proof.Machine
end

