-- ==== Sys2Proof/Machine/AaCache.lean ====
section
/-! DEFINITION. The Access-Address Discovery operations and the candidate cache (44_aa_cache.md rules R210 to R219). -/

namespace Sys2Proof.Machine

/-- The slots in index order. -/
def slots : List (Fin 32) := List.finRange 32

/-- The slot that holds an address (R210). -/
def State.holding (s : State) (aa : Word) : Option (Fin 32) := slots.find? fun i => s.ac[i].valid && s.ac[i].aa == aa

/-- The lowest slot that is not valid (R210). -/
def State.vacant (s : State) : Option (Fin 32) := slots.find? fun i => !s.ac[i].valid

/-- The lowest slot whose count is the minimum over the 32 (R210). -/
def State.leastSeen (s : State) : Fin 32 :=
  (slots.find? fun i => slots.all fun k => decide (s.ac[i].count.toNat ≤ s.ac[k].count.toNat)).getD 0

/-- What `see(S, aa)` returns beside the state: the slot touched, the flags and the evicted address (R210). -/
structure Seen where
  slot : Fin 32
  inserted : Bool
  evicted : Bool
  promoted : Bool
  old : Word
  deriving DecidableEq, Repr

/-- A new entry of the cache starts at count 1 (R210). -/
def AcSlot.fresh (aa : Word) : AcSlot := { valid := true, aa := aa, count := 1 }

/-- `see(S, aa)` (R210). -/
def see (s : State) (aa : Word) : State × Seen :=
  match s.holding aa with
  | some j =>
    (s.setSlot j { s.ac[j] with count := satSucc s.ac[j].count },
      { slot := j, inserted := false, evicted := false, promoted := exceedsPromote (satSucc s.ac[j].count), old := 0 })
  | none =>
    match s.vacant with
    | some j =>
      (s.setSlot j (AcSlot.fresh aa),
        { slot := j, inserted := true, evicted := false, promoted := exceedsPromote 1, old := 0 })
    | none =>
      (s.setSlot s.leastSeen (AcSlot.fresh aa),
        { slot := s.leastSeen, inserted := true, evicted := true, promoted := exceedsPromote 1,
          old := s.ac[s.leastSeen].aa })

/-- `promote(S, aa)`, the state it leaves (R214). -/
def State.promote (s : State) (aa : Word) : State :=
  { s.enter s.mode s.lstate .crcRecovery with aa := aa, aaValid := true }

/-- The events `promote(S, aa)` emits (R214). -/
def promoteEvents (s : State) (aa : Word) : List Event := [.aa aa .promoted, (s.promote aa).stageEvent]

/-- `AC_CLEAR` (R211). -/
def execAcClear (s : State) : Result :=
  served .acClear s <| reply s.clearCache {}

/-- The response of `AC_SEE` (R212). -/
def seeResponse (s : State) (x : Seen) (events : List Event) : Response :=
  { ra := toByte x.slot.val
    rb := seeFlags x.promoted x.evicted x.inserted
    words := [s.ac[x.slot].count, if x.evicted then x.old else 0]
    events := events }

/-- `AC_SEE` (R212). -/
def execAcSee (aa : Word) (s : State) : Result :=
  served .acSee s <|
    if s.stage = .discovery then
      let r := see s aa
      if r.2.promoted then
        reply (r.1.promote aa) (seeResponse r.1 r.2 (promoteEvents r.1 aa))
      else reply r.1 (seeResponse r.1 r.2 [])
    else raise s .badState

/-! ### The scan -/

/-- The first bytes of the four headers (R215). -/
def headerBytes : List Byte := [0x01#8, 0x05#8, 0x09#8, 0x0D#8]

/-- `pat(ch, h)`: the whitened air bits of a header, at whitening position 0 (R215). -/
def pattern (ch hb : Byte) : List Bool :=
  (byteBits hb ++ byteBits 0#8).zipWith (fun x k => x ^^ wbit ch k) (List.range 16)

/-- The four patterns of a channel (R215). -/
def patterns (ch : Byte) : List (List Bool) := headerBytes.map (pattern ch)

/-- The air bit sequence of a receive-order byte string (R81, R216). -/
def airBits (data : List Byte) : List Bool := data.flatMap receiveBits

/-- Byte `m` of a window of air bits, reflected into protocol order (R216). -/
def windowByte (window : List Bool) (m : Nat) : Byte := byteOf ((window.drop (8 * m)).take 8)

/-- The candidate address of a window: its first four bytes, not whitened (R216, R217). -/
def windowAddress (window : List Bool) : Word :=
  le32 (windowByte window 0) (windowByte window 1) (windowByte window 2) (windowByte window 3)

/-- Byte `m`, 4 to 10, of a window, dewhitened from position `8 * (m - 4)` (R216, R217). -/
def windowDewhitened (ch : Byte) (window : List Bool) (m : Nat) : Byte :=
  windowByte window m ^^^ maskAt (whIdx ch + 8 * (m - 4))

/-- The scan as it goes: the state, the matches so far, the last candidate, whether one was promoted, the events. -/
structure Scan where
  state : State
  found : Nat
  last : Word
  promoted : Bool
  events : List Event
  deriving DecidableEq, Repr

/-- Record the candidate of a matching window at position `p` (R216). -/
def Scan.record (acc : Scan) (ch : Byte) (p : Nat) (window : List Bool) : Scan :=
  let cand := windowAddress window
  let ev := Event.cand (toHalf p) cand (windowDewhitened ch window 4) (windowDewhitened ch window 5)
  let r := see acc.state cand
  if r.2.promoted then
    { state := r.1.promote cand, found := acc.found + 1, last := cand, promoted := true,
      events := acc.events ++ ev :: promoteEvents r.1 cand }
  else
    { state := r.1, found := acc.found + 1, last := cand, promoted := false, events := acc.events ++ [ev] }

/-- The loop of R216: `n` positions from `p` on, `window` the air bits from position `p - 32` to the end. It stops at a
promotion. -/
def scanFrom (ch : Byte) (pats : List (List Bool)) : Nat → Nat → List Bool → Scan → Scan
  | 0, _, _, acc => acc
  | n + 1, p, window, acc =>
    if pats.contains ((window.drop 32).take 16) then
      let acc' := acc.record ch p window
      if acc'.promoted then acc' else scanFrom ch pats n (p + 1) (window.drop 1) acc'
    else scanFrom ch pats n (p + 1) (window.drop 1) acc

/-- The whole scan: positions 32 to `8n - 56`, none when the operand is under 88 bits (R216). -/
def scan (s : State) (ch : Byte) (data : List Byte) : Scan :=
  scanFrom ch (patterns ch) (8 * data.length - 87) 32 (airBits data)
    { state := s, found := 0, last := 0, promoted := false, events := [] }

/-- `AC_SCAN` (R216). -/
def execAcScan (ch : Byte) (data : List Byte) (s : State) : Result :=
  served .acScan s <|
    if badChan ch || tooLong data then raise s .range
    else if s.stage = .discovery then
      let r := scan s ch data
      reply r.state { rb := toHalf (bit r.promoted), words := [toWord r.found, r.last], events := r.events }
    else raise s .badState

/-- `AC_GET` (R218). -/
def execAcGet (slot : Byte) (s : State) : Result :=
  served .acGet s <|
    match slotIndex slot with
    | none => raise s .range
    | some i =>
      if s.ac[i].valid then reply s { ra := 1, words := [s.ac[i].aa, s.ac[i].count] }
      else reply s { ra := 0, words := [0, 0] }

end Sys2Proof.Machine
end

