-- ==== Sys2Proof/Machine/BufferPool.lean ====
section
/-! DEFINITION. The Packet Buffer Pool operations (43_buffer_pool.md rules R180 to R191). -/

namespace Sys2Proof.Machine

/-- The buffer a `PB_ACQ` hands out: tag `CAPTURING`, `len` and the RSSI accumulators at their start values, the old data and
metadata not cleared (R182). -/
def Buffer.acquired (p : Buffer) : Buffer :=
  { p with tag := .capturing, len := 0, rssiMin := 127#8, rssiMax := 0x80#8, rssiSum := 0 }

/-- `PB_ACQ` (R182). -/
def execPbAcq (s : State) : Result :=
  served .pbAcq s <|
    match s.capturing with
    | some _ => raise s .badState
    | none =>
      match s.findTag .free with
      | none => raise { s with discards := satSucc s.discards } .noBuf
      | some b => reply (s.setBuf b s.pb[b].acquired) { ra := toByte b.val }

/-- Whether the declared length of a body is known and exceeds `MAX_PDU_LEN` (R183). -/
def overDeclared (ps : Params) (body : List Byte) : Bool :=
  decide (2 ≤ body.length) && decide (ps.maxPduLen < declared ps (body.getD 1 0))

/-- A buffer with bytes appended at `len` (R183). -/
def Buffer.append (p : Buffer) (d : List Byte) : Buffer :=
  { p with data := p.data.writeAll p.len.toNat d, len := toHalf (p.len.toNat + d.length) }

/-- `PB_WRITE` (R183). -/
def execPbWrite (data : List Byte) (s : State) : Result :=
  served .pbWrite s <|
    if tooLong data then raise s .range
    else
      match s.capturing with
      | none => raise s .badTag
      | some b =>
        if Config.pbCap < s.pb[b].len.toNat + data.length then dropMalformed s b
        else if overDeclared s.params (s.pb[b].bytes ++ data) then dropMalformed s b
        else reply (s.setBuf b (s.pb[b].append data)) { rb := toHalf (s.pb[b].len.toNat + data.length) }

/-- One sample folded into the accumulators (R184). -/
def Buffer.sample (p : Buffer) (x : Byte) : Buffer :=
  { p with rssiMin := minSigned p.rssiMin x, rssiMax := maxSigned p.rssiMax x, rssiSum := satAdd p.rssiSum x }

/-- `PB_RSSI` (R184). -/
def execPbRssi (sample : Byte) (s : State) : Result :=
  served .pbRssi s <|
    match s.capturing with
    | none => raise s .badTag
    | some b => reply (s.setBuf b (s.pb[b].sample sample)) {}

/-- Whether a buffer holds a whole body: header, the declared payload and the CRC (R185). -/
def Buffer.whole (ps : Params) (p : Buffer) : Bool :=
  decide (5 ≤ p.len.toNat) && decide (p.len.toNat = 2 + declared ps (p.data.read 1) + 3)

/-- `PB_COMMIT` (R185). -/
def execPbCommit (chan : Byte) (ts : Ts) (aa : Word) (s : State) : Result :=
  served .pbCommit s <|
    if badChan chan then raise s .range
    else
      match s.capturing with
      | none => raise s .badTag
      | some b =>
        if s.pb[b].whole s.params then
          reply
            { s.setBuf b { s.pb[b] with chan := chan, ts := ts, aa := aa, tag := .queued } with pbq := s.pbq ++ [b] }
            { ra := toByte b.val }
        else dropMalformed s b

/-- `PB_ABORT` (R186). -/
def execPbAbort (s : State) : Result :=
  served .pbAbort s <|
    match s.capturing with
    | none => raise s .badTag
    | some b => reply (s.setTag b .free) {}

/-- `PB_POLL` (R187). -/
def execPbPoll (s : State) : Result :=
  served .pbPoll s <|
    match s.pbq with
    | [] => raise s .empty
    | b :: _ => reply s { ra := toByte b.val }

/-- The response of `PB_READ` (R188). -/
def Buffer.report (p : Buffer) : Response :=
  { rb := p.len, words := [p.ts, p.aa, rssiWord p.chan p.rssiMin p.rssiMax, p.rssiSum], data := p.bytes }

/-- `PB_READ` (R188). -/
def execPbRead (buf : Byte) (s : State) : Result :=
  served .pbRead s <|
    match bufIndex buf with
    | none => raise s .range
    | some b => if s.pb[b].tag = .queued then reply s s.pb[b].report else raise s .badTag

/-- `PB_REL` (R189). -/
def execPbRel (buf : Byte) (s : State) : Result :=
  served .pbRel s <|
    match bufIndex buf with
    | none => raise s .range
    | some b =>
      if s.pb[b].tag = .queued then
        reply { s.setTag b .free with pbq := s.pbq.filter fun x => x != b } {}
      else raise s .badTag

/-- `PB_STAT` (R190). -/
def execPbStat (s : State) : Result :=
  served .pbStat s <|
    reply s
      { ra := tagByte s.pb[0].tag s.pb[1].tag s.pb[2].tag s.pb[3].tag
        rb := toHalf s.pbq.length
        words := [s.discards] }

end Sys2Proof.Machine
end

