-- ==== Sys2Proof/Machine/ChannelMapper.lean ====
section
/-! DEFINITION. The Channel Mapper operations (40_channel_mapper.md rules R130 to R133). They read and write no state. -/

namespace Sys2Proof.Machine

/-- The frequency in MHz of a channel index 0..39 (R130). -/
def chanFreq (idx : Nat) : Nat :=
  if idx = 37 then 2402
  else if idx = 38 then 2426
  else if idx = 39 then 2480
  else if idx < 11 then 2404 + 2 * idx
  else 2428 + 2 * (idx - 11)

/-- The channel index of a frequency; none outside the band and for an odd frequency (R131). -/
def freqChan (freq : Nat) : Option Nat :=
  if freq < 2402 ∨ 2480 < freq then none
  else if freq % 2 = 1 then none
  else if freq = 2402 then some 37
  else if freq = 2426 then some 38
  else if freq = 2480 then some 39
  else if freq < 2426 then some ((freq - 2404) / 2)
  else some (11 + (freq - 2428) / 2)

/-- `CM_I2F` (R130). -/
def execCmI2f (idx : Byte) (s : State) : Result :=
  served .cmI2f s <|
    if badChan idx then raise s .range
    else reply s { rb := toHalf (chanFreq idx.toNat) }

/-- `CM_F2I` (R131). -/
def execCmF2i (freq : Half) (s : State) : Result :=
  served .cmF2i s <|
    match freqChan freq.toNat with
    | none => raise s .range
    | some i => reply s { ra := toByte i }

/-- `CM_ADV` (R132). -/
def execCmAdv (s : State) : Result :=
  served .cmAdv s <| reply s { words := [toWord (37 + 38 * 2 ^ 8 + 39 * 2 ^ 16)] }

/-- `CM_HOP` (R133). -/
def execCmHop (idx inc : Byte) (s : State) : Result :=
  served .cmHop s <|
    if 36 < idx.toNat then raise s .range
    else if 36 < inc.toNat then raise s .range
    else reply s { ra := dataChan (idx.toNat + inc.toNat) }

end Sys2Proof.Machine
end

