-- ==== Sys2Proof/Machine/Crc.lean ====
section
/-! DEFINITION. The CRC Engine operations (42_crc.md rules R160 to R170). They read and write no state. -/

namespace Sys2Proof.Machine

/-- The forward bit step (R161). -/
def fstep (c : Crc) (b : Bool) : Crc :=
  if c.getLsbD 0 ^^ b then (c >>> 1 ||| 0x800000#24) ^^^ Config.crcMaskF else c >>> 1

/-- The reverse bit step (R166). -/
def rstep (c : Crc) (b : Bool) : Crc :=
  let t := c.getLsbD 23
  let c1 := c <<< 1 ||| (if t ^^ b then 1#24 else 0#24)
  if t then c1 ^^^ Config.crcMaskR else c1

/-- The register after the bits of one byte, bit 0 first (R162). -/
def fbyte (c : Crc) (d : Byte) : Crc := (byteBits d).foldl fstep c

/-- The register before the bits of one byte, bit 7 undone first (R165). -/
def rbyte (c : Crc) (d : Byte) : Crc := (byteBits d).reverse.foldl rstep c

/-- The forward CRC over a byte string (R162). -/
def crcForward (seed : Crc) (data : List Byte) : Crc := data.foldl fbyte seed

/-- The reverse CRC over a byte string, last byte first (R165). -/
def crcReverse (crc : Crc) (data : List Byte) : Crc := data.reverse.foldl rbyte crc

/-- One byte by the lookup table (R163). -/
def tbyte (c : Crc) (d : Byte) : Crc := c >>> 8 ^^^ crcLut (c.setWidth 8 ^^^ d)

/-- The forward CRC by the lookup table (R163). -/
def crcTable (seed : Crc) (data : List Byte) : Crc := data.foldl tbyte seed

/-- The CRC a body carries in its last three bytes (R83, R169). -/
def wireCrc (data : List Byte) : Crc :=
  let n := data.length
  le24 (data.getD (n - 3) 0) (data.getD (n - 2) 0) (data.getD (n - 1) 0)

/-- The CRC of a body less its last three bytes (R169). -/
def bodyCrc (seed : Crc) (data : List Byte) : Crc := crcForward seed (data.take (data.length - 3))

/-- Whether the CRC a body carries is its CRC (R169); a body under three bytes carries none (log 18). -/
def crcOk (seed : Crc) (data : List Byte) : Bool := decide (3 ≤ data.length) && (bodyCrc seed data == wireCrc data)

/-- A CRC value as a result word (R102). -/
def crcWord (c : Crc) : Word := c.setWidth 32

/-- `CRC_FWD` (R162). -/
def execCrcFwd (seed : Crc) (data : List Byte) (s : State) : Result :=
  served .crcFwd s <|
    if tooLong data then raise s .range
    else reply s { words := [crcWord (crcForward seed data)] }

/-- `CRC_FWDT` (R163). -/
def execCrcFwdt (seed : Crc) (data : List Byte) (s : State) : Result :=
  served .crcFwdt s <|
    if tooLong data then raise s .range
    else reply s { words := [crcWord (crcTable seed data)] }

/-- `CRC_REV` (R165). -/
def execCrcRev (crc : Crc) (data : List Byte) (s : State) : Result :=
  served .crcRev s <|
    if tooLong data then raise s .range
    else reply s { words := [crcWord (crcReverse crc data)] }

/-- `CRC_REV24` (R167). -/
def execCrcRev24 (v : Crc) (s : State) : Result :=
  served .crcRev24 s <| reply s { words := [crcWord (rev24 v)] }

/-- `CRC_CHK` (R169). -/
def execCrcChk (seed : Crc) (data : List Byte) (s : State) : Result :=
  served .crcChk s <|
    if data.length < 3 || tooLong data then raise s .range
    else reply s
      { ra := toByte (bit (crcOk seed data)), words := [crcWord (bodyCrc seed data), crcWord (wireCrc data)] }

end Sys2Proof.Machine
end

