-- ==== Sys2Proof/Machine/ParamRecovery.lean ====
section
/-! DEFINITION. The Parameter Recovery operations and `TICK` (45_param_recovery.md rules R230 to R262), with the
`ConnectionFollow` handler of 46_link_state.md rule R277 and the inactivity timeout of R288, which `PR_PKT` and `TICK` call. -/

namespace Sys2Proof.Machine

/-- `PR_START`, the state it leaves (R231). -/
def State.startDiscovery (s : State) (ch : Byte) : State :=
  { s.forget.enter .promisc .listening .discovery with discChan := ch, chan := ch, rtChan := ch, rtPending := true }

/-- `PR_START` (R231). -/
def execPrStart (ch : Byte) (s : State) : Result :=
  served .prStart s <|
    if badChan ch then raise s .range
    else if s.mode = .off then
      reply (s.startDiscovery ch) { events := [(s.startDiscovery ch).stageEvent] }
    else raise s .badState

/-- `PR_STOP` (R232). -/
def execPrStop (s : State) : Result :=
  served .prStop s <|
    if s.mode = .promisc then reply s.shutDown { events := [s.shutDown.stageEvent] }
    else raise s .badState

/-- `PR_SETAA`, the state it leaves (R233). -/
def State.track (s : State) (aa : Word) : State :=
  { (s.forget.enter s.mode .listening .crcRecovery).tuneIfOther s.discChan with aa := aa, aaValid := true }

/-- `PR_SETAA` (R233). -/
def execPrSetaa (aa : Word) (s : State) : Result :=
  served .prSetaa s <|
    if s.mode = .promisc then
      reply (s.track aa) { events := [.aa aa .operator, (s.track aa).stageEvent] }
    else raise s .badState

/-- `PR_RESEED` (R235). -/
def execPrReseed (s : State) : Result :=
  served .prReseed s <|
    if s.mode = .promisc then reply s.reseeded { events := reseedEvents s .command }
    else raise s .badState

/-! ### Packet intake -/

/-- The packet view of a buffer (R238). -/
structure PacketView where
  aa : Word
  ts : Ts
  chan : Byte
  data : List Byte
  deriving DecidableEq, Repr

/-- `view(S, b)` (R238). -/
def Buffer.view (p : Buffer) : PacketView := { aa := p.aa, ts := p.ts, chan := p.chan, data := p.bytes }

/-- `p.hdr0` (R238). -/
def PacketView.hdr0 (p : PacketView) : Byte := p.data.getD 0 0

/-- `p.hdr1` (R238). -/
def PacketView.hdr1 (p : PacketView) : Byte := p.data.getD 1 0

/-- The disposition a packet gets, `RA` of `PR_PKT` (R237). -/
inductive Disposition where
  | accepted
  | ignoredStage
  | ignoredAa
  | droppedCrc
  | noSignature
  | shortGap
  | probeOther
  | inconclusive
  deriving DecidableEq, Repr

/-- The disposition codes (R237). -/
def Disposition.code : Disposition → Byte
  | .accepted => 0
  | .ignoredStage => 1
  | .ignoredAa => 2
  | .droppedCrc => 3
  | .noSignature => 4
  | .shortGap => 5
  | .probeOther => 6
  | .inconclusive => 7

/-- What a stage handler leaves: the state, the disposition, the events it emitted. -/
structure Handled where
  state : State
  disposition : Disposition
  events : List Event
  deriving DecidableEq, Repr

/-- `enter_interval(S, ts)` (R241). -/
def State.enterInterval (s : State) (ts : Ts) : State :=
  { s.enter s.mode s.lstate .hopIntervalRecovery with
    hiSmallest := 0xFFFFFFFF#32, hiMatch := 0, hiEst := 0, hiPrevTs := ts }

/-- `enter_increment(S)` (R247). -/
def State.enterIncrement (s : State) : State :=
  { (s.enter s.mode s.lstate .hopIncrementRecovery).tune s.params.probeA with hpFirstValid := false, hpRetries := 0 }

/-- Whether a packet is the empty PDU that gives the seed: header `01 00`, five bytes in all (R240). -/
def PacketView.isSignature (p : PacketView) : Bool :=
  decide (p.data.length = 5) && p.hdr0 == 0x01#8 && p.hdr1 == 0x00#8

/-- The seed in LFSR form that a signature packet gives (R240). -/
def PacketView.seed (p : PacketView) : Crc := crcReverse (wireCrc p.data) [0x01#8, 0x00#8]

/-- Seed recovery, the state it leaves (R240). -/
def State.recoverSeed (s : State) (p : PacketView) : State :=
  { s.enterInterval p.ts with
    crcLfsr := p.seed, crcRaw := rev24 p.seed, crcVerified := true, crcVerify := s.params.verifyOnSeed }

/-- `stage_crc(S, buf, p)` (R240); it emits `PACKET` itself. -/
def stageCrc (s : State) (b : Fin 4) (p : PacketView) : Handled :=
  if p.isSignature then
    let t := s.recoverSeed p
    { state := t, disposition := .accepted,
      events := [.packet b true false p.aa p.ts, .crc t.crcRaw t.crcLfsr, t.stageEvent] }
  else { state := s, disposition := .noSignature, events := [] }

/-- The interval estimate of a smallest gap (R242): `min(rdiv(smallest, 37 * TICKS_PER_UNIT), 65535)`. -/
def estimate (ps : Params) (smallest : Ts) : Nat := min (rdiv smallest.toNat (Config.nData * ps.ticksPerUnit)) 65535

/-- `freeze(S)`, the state it leaves (R246). -/
def State.freeze (s : State) : State := { s with interval := s.hiEst, intervalValid := true }.enterIncrement

/-- The smallest gap seen, with one more gap (R242). -/
def smaller (smallest gap : Ts) : Ts := if gap.toNat < smallest.toNat then gap else smallest

/-- `stage_interval(S, p)` (R242). -/
def stageInterval (s : State) (p : PacketView) : Handled :=
  let gap := tdiff p.ts s.hiPrevTs
  if gap.toNat < s.params.minGap then { state := s, disposition := .shortGap, events := [] }
  else
    let sm := smaller s.hiSmallest gap
    let s1 : State := { s with hiPrevTs := p.ts, hiSmallest := sm }
    let est := estimate s.params sm
    if est ≠ 0 ∧ est = s.hiEst.toNat then
      let s2 : State := { s1 with hiMatch := toByte (s.hiMatch.toNat + 1) }
      if s2.hiMatch.toNat = Config.hiConsec then
        { state := s2.freeze, disposition := .accepted,
          events := [.interval s2.freeze.interval, s2.freeze.stageEvent] }
      else { state := s2, disposition := .accepted, events := [] }
    else { state := { s1 with hiEst := toHalf est, hiMatch := 0 }, disposition := .accepted, events := [] }

/-- The number of hops modulo 37 between a packet on `PROBE_A` and one on `PROBE_B` (R248). -/
def hopsMod (ps : Params) (interval : Half) (elapsed : Ts) : Nat :=
  rdiv elapsed.toNat (interval.toNat * ps.ticksPerUnit) % Config.nData

/-- `(PROBE_B - PROBE_A) mod 37` (R248, R249). -/
def probeDistance (ps : Params) : Nat := (((ps.probeB.toNat : Int) - ps.probeA.toNat) % Config.nData).toNat

/-- The hop increment of an inverse `HOPINV[k]` (R248, R249). -/
def increment (ps : Params) (inv : Nat) : Byte := dataChan (inv * probeDistance ps)

/-- `succeed(S, p, inc)`, the state it leaves (R250); a conclusive pair also clears `HP_FIRST_VALID`, as the table of R47 says of every
packet outcome of the stage but the one that sets it (DEDUCED, log 20). -/
def State.succeed (s : State) (p : PacketView) (inc : Byte) : State :=
  { s.enter s.mode .connected .connectionFollow with
    hopinc := inc, hopincValid := true, evcnt := 0, epochTs := p.ts, lastPktTs := p.ts, hpFirstValid := false }

/-- `inconclusive(S)` (R251); `HP_RETRIES` is a `u8` and wraps (R39, R13; DEDUCED, log 19). -/
def inconclusive (s : State) : Handled :=
  let s1 : State := { s with hpRetries := toByte (s.hpRetries.toNat + 1) }
  if s.params.probeRetryMax < s1.hpRetries.toNat then
    { state := s1.reseeded, disposition := .inconclusive, events := reseedEvents s1 .probesExhausted }
  else
    { state := { s1.tune s.params.probeA with hpFirstValid := false }, disposition := .inconclusive,
      events := [.probe s1.hpRetries] }

/-- `stage_increment(S, p)` (R248). `HOPINV[k]` is `NONE` exactly at `k = 0` (R63, R249). -/
def stageIncrement (s : State) (p : PacketView) : Handled :=
  if p.chan = s.params.probeA then
    { state := { s.tune s.params.probeB with hpFirstTs := p.ts, hpFirstValid := true },
      disposition := .accepted, events := [] }
  else if p.chan = s.params.probeB ∧ s.hpFirstValid = true then
    match hopInv (hopsMod s.params s.interval (tdiff p.ts s.hpFirstTs)) with
    | some inv =>
      let t := s.succeed p (increment s.params inv)
      { state := t, disposition := .accepted, events := [.hopinc t.hopinc, t.stageEvent] }
    | none => inconclusive s
  else
    { state := { s.tuneIfOther s.params.probeA with hpFirstValid := false }, disposition := .probeOther, events := [] }

/-- `stage_follow(S, p)` (46_link_state.md R277); `STAGE_TS_VALID` is left alone. -/
def stageFollow (s : State) (p : PacketView) : Handled :=
  let s1 : State := { s with lastPktTs := p.ts }
  if s.lstate = .connPending then
    let t : State := { s1 with lstate := .connected, evcnt := 0, epochTs := p.ts }
    { state := t, disposition := .accepted, events := [t.stageEvent] }
  else { state := s1, disposition := .accepted, events := [] }

/-- The handler `STAGE` selects once the address gate and the CRC gate are passed (R237). The handlers test the flags their pseudocode
tests and no other (DEDUCED, log 22). -/
def stageHandler (s : State) (p : PacketView) : Handled :=
  match s.stage with
  | .hopIntervalRecovery => stageInterval s p
  | .hopIncrementRecovery => stageIncrement s p
  | .connectionFollow => stageFollow s p
  | .idle => { state := s, disposition := .ignoredStage, events := [] }
  | .discovery => { state := s, disposition := .ignoredStage, events := [] }
  | .crcRecovery => { state := s, disposition := .noSignature, events := [] }

/-- One packet presented to the stage machine: the two gates and the handler (R237, R239). -/
def intake (s : State) (b : Fin 4) : Handled :=
  let p := s.pb[b].view
  if s.stage = .idle ∨ s.stage = .discovery then { state := s, disposition := .ignoredStage, events := [] }
  else if s.aaValid = false ∨ p.aa ≠ s.aa then { state := s, disposition := .ignoredAa, events := [] }
  else if s.stage = .crcRecovery then stageCrc s b p
  else
    let ok := crcOk s.crcLfsr p.data
    if s.crcVerify = true ∧ ok = false then { state := s, disposition := .droppedCrc, events := [] }
    else
      let h := stageHandler s p
      { h with events := .packet b ok true p.aa p.ts :: h.events }

/-- `PR_PKT` (R237); `RB` is the stage after the handler ran. -/
def execPrPkt (buf : Byte) (s : State) : Result :=
  served .prPkt s <|
    match bufIndex buf with
    | none => raise s .range
    | some b =>
      if s.pb[b].tag = .queued then
        let h := intake s b
        reply h.state { ra := h.disposition.code, rb := toHalf h.state.stage.code, events := h.events }
      else raise s .badTag

/-! ### Reporting and configuration -/

/-- The nine words of `PR_GET` (R255); `EPOCH_TS` in `CONN_PENDING` is log 14. -/
def reportWords (s : State) : List Word :=
  [stateWord s, orZero s.aaValid s.aa, crcWord (orZero s.crcVerified s.crcRaw), crcWord (orZero s.crcVerified s.crcLfsr),
   packHalves s.evcnt (orZero s.intervalValid s.interval), (0#8 ++ (s.winSize ++ s.winOffset) : BitVec (8 + (8 + 16))),
   orZero (following s) s.lastPktTs, orZero (following s) s.epochTs, s.discards]

/-- `PR_GET` (R255). -/
def execPrGet (s : State) : Result :=
  served .prGet s <| reply s { words := reportWords s }

/-- `PR_GETAA` (R256). -/
def execPrGetaa (s : State) : Result :=
  served .prGetaa s <|
    if s.aaValid then reply s { ra := 1, words := [s.aa] } else reply s { ra := 0, words := [0] }

/-- `PR_SETCV` (R257). -/
def execPrSetcv (on : Byte) (s : State) : Result :=
  served .prSetcv s <|
    if 1 < on.toNat then raise s .range
    else reply { s with crcVerify := on == 1#8 } {}

/-- `PR_GETCV` (R258). -/
def execPrGetcv (s : State) : Result :=
  served .prGetcv s <| reply s { ra := toByte (bit s.crcVerify), rb := toHalf (bit s.crcVerified) }

/-- The timeout register a selector names (R259). -/
def State.setTimeout (s : State) (which : Nat) (ticks : Word) : Option State :=
  match which with
  | 0 => some { s with discTimeout := ticks }
  | 1 => some { s with recovTimeout := ticks }
  | 2 => some { s with connTimeout := ticks }
  | _ => none

/-- `PR_SETTO` (R259). -/
def execPrSetto (which : Byte) (ticks : Word) (s : State) : Result :=
  served .prSetto s <|
    match s.setTimeout which.toNat ticks with
    | none => raise s .range
    | some t => reply t {}

/-! ### Time -/

/-- `link_timeout(S)`, the state it leaves; `LS_CANCEL` leaves the same (46_link_state.md R288, R290). -/
def State.unlink (s : State) : State := if s.mode = .promisc then s.reseeded else s.shutDown

/-- The events of leaving the connection: `RESEED` and `STAGE` in `PROMISC`, `STAGE` in `FOLLOW` (R288, R290). -/
def unlinkEvents (s : State) (reason : ReseedReason) : List Event :=
  if s.mode = .promisc then reseedEvents s reason else [s.shutDown.stageEvent]

/-- Latch the start of the stage's timeout, if none is latched (R26, R260). -/
def State.latch (s : State) (now : Ts) : State :=
  { s with stageTs := if s.stageTsValid then s.stageTs else now, stageTsValid := true }

/-- Whether a stage is one of the three recovery stages (R260). -/
def Stage.recovering : Stage → Bool
  | .crcRecovery => true
  | .hopIntervalRecovery => true
  | .hopIncrementRecovery => true
  | .idle => false
  | .discovery => false
  | .connectionFollow => false

/-- Whether a timeout register is armed and passed; the comparison is strict (R41, R260). -/
def expired (limit elapsed : Ts) : Bool := decide (limit ≠ 0) && decide (limit.toNat < elapsed.toNat)

/-- The three timeouts at a time, on a state whose stage start is latched: the state they leave and the events; none when no
timeout is passed (R260). -/
def timeouts (s : State) (now : Ts) : Option (State × List Event) :=
  let el := tdiff now s.stageTs
  let idle := tdiff now s.lastPktTs
  if s.stage = .discovery ∧ expired s.discTimeout el = true then
    some (s.reseeded, .timeout .discovery el :: reseedEvents s .discoveryTimeout)
  else if s.stage.recovering = true ∧ expired s.recovTimeout el = true then
    some (s.reseeded, .timeout .recovery el :: reseedEvents s .recoveryTimeout)
  else if s.stage = .connectionFollow ∧ s.connTimeout.toNat < idle.toNat then
    some (s.unlink, .timeout .inactivity idle :: unlinkEvents s .inactivity)
  else none

/-- `TICK` (R260). -/
def execTick (now : Ts) (s : State) : Result :=
  served .tick s <|
    if s.mode = .off then reply s {}
    else
      match timeouts (s.latch now) now with
      | some (t, events) => reply t { ra := 1, events := events }
      | none => reply (s.latch now) {}

end Sys2Proof.Machine
end

