-- ==== Sys2Proof/Machine/LinkState.lean ====
section
/-! DEFINITION. The Connection Link State operations and the retune mailbox (46_link_state.md rules R270 to R292). -/

namespace Sys2Proof.Machine

/-- `LS_FOLLOW`, the state it leaves (R271). -/
def State.startFollow (s : State) (ch : Byte) : State := (s.forget.enter .follow .listening .idle).tune ch

/-- `LS_FOLLOW` (R271). -/
def execLsFollow (ch : Byte) (s : State) : Result :=
  served .lsFollow s <|
    if ch.toNat < 37 ∨ 39 < ch.toNat then raise s .range
    else if s.mode = .off then
      reply (s.startFollow ch) { events := [(s.startFollow ch).stageEvent] }
    else raise s .badState

/-- `LS_STOP` (R272). -/
def execLsStop (s : State) : Result :=
  served .lsStop s <|
    if s.mode = .follow then reply s.shutDown { events := [s.shutDown.stageEvent] }
    else raise s .badState

/-- `LS_FILTER` (R273). -/
def execLsFilter (addr mask : Addr48) (s : State) : Result :=
  served .lsFilter s <| reply { s with filtAddr := addr, filtMask := mask } {}

/-- `hit(S, x)` (R274). -/
def hit (s : State) (x : Addr48) : Bool := (x ^^^ s.filtAddr) &&& s.filtMask == 0#48

/-- `passes(S, i, a)` (R274). -/
def passes (s : State) (init adv : Addr48) : Bool := hit s init || hit s adv

/-- The fields of a connection request that the block keeps (R275). -/
structure ConnRequest where
  hopinc : Byte
  aa : Word
  crc : Crc
  winSize : Byte
  winOffset : Half
  interval : Half
  ts : Ts
  deriving DecidableEq, Repr

/-- `LS_CONNREQ` that passes the filter, the state it leaves (R275, R278). -/
def State.connect (s : State) (q : ConnRequest) : State :=
  { (s.enter s.mode .connPending .connectionFollow).tune (dataChan (0 + q.hopinc.toNat)) with
    aa := q.aa, aaValid := true
    crcRaw := q.crc, crcLfsr := rev24 q.crc, crcVerified := true, crcVerify := true
    winSize := q.winSize, winOffset := q.winOffset
    interval := q.interval, intervalValid := true
    hopinc := q.hopinc, hopincValid := true
    updPending := false, evcnt := 0
    lastPktTs := q.ts }

/-- The events of a connection request taken (R275). -/
def connectEvents (s : State) (q : ConnRequest) : List Event :=
  [.aa q.aa .request, .crc (s.connect q).crcRaw (s.connect q).crcLfsr, .interval q.interval, .hopinc q.hopinc,
   (s.connect q).stageEvent]

/-- `LS_CONNREQ` (R275). -/
def execLsConnreq (hopinc : Byte) (aa : Word) (crc : Crc) (winSize : Byte) (winOffset interval : Half) (ts : Ts)
    (init adv : Addr48) (s : State) : Result :=
  served .lsConnreq s <|
    if 36 < hopinc.toNat then raise s .range
    else if s.mode ≠ .follow ∨ s.lstate ≠ .listening then raise s .badState
    else if passes s init adv then
      let q : ConnRequest :=
        { hopinc := hopinc, aa := aa, crc := crc, winSize := winSize, winOffset := winOffset, interval := interval, ts := ts }
      reply (s.connect q) { ra := 1, rb := (s.connect q).chan.setWidth 16, events := connectEvents s q }
    else reply s { ra := 0 }

/-- `LS_UPDATE` (R282). -/
def execLsUpdate (winSize : Byte) (instant interval winOffset : Half) (s : State) : Result :=
  served .lsUpdate s <|
    if s.lstate = .connected then
      reply
        { s with
          updWinSize := winSize, updWinOffset := winOffset, updInterval := interval, updInstant := instant,
          updPending := true }
        { rb := s.evcnt }
    else raise s .badState

/-- `apply_update(S)`, the state it leaves (R284). -/
def State.applyUpdate (s : State) : State :=
  { s with winSize := s.updWinSize, winOffset := s.updWinOffset, interval := s.updInterval, updPending := false }

/-- The event of an update taking effect (R284). -/
def State.updateEvent (s : State) : Event := .update s.interval s.winSize s.winOffset s.evcnt

/-- One more connection event counted (R283, R34). -/
def State.countEvent (s : State) : State := { s with evcnt := toHalf (s.evcnt.toNat + 1) }

/-- Whether a pending update is due: equality on the counter, never "greater or equal" (R283, R285). -/
def State.updateDue (s : State) : Bool := s.updPending && s.evcnt == s.updInstant

/-- The hop of a connection: `CHAN <- (CHAN + HOPINC) mod 37`, posted (R283, R133). -/
def State.hop (s : State) : State := s.tune (dataChan (s.chan.toNat + s.hopinc.toNat))

/-- `LS_EVENT` (R283); `HOPINC_VALID` is not tested (DEDUCED, log 22). -/
def execLsEvent (s : State) : Result :=
  served .lsEvent s <|
    if s.lstate = .connected then
      let s1 := s.countEvent
      if s1.updateDue then
        let t := s1.applyUpdate.hop
        reply t { ra := t.chan, rb := t.evcnt, words := [1], events := [s1.applyUpdate.updateEvent] }
      else
        let t := s1.hop
        reply t { ra := t.chan, rb := t.evcnt, words := [0] }
    else raise s .badState

/-- `LS_CANCEL` (R290); in `PROMISC` mode it re-seeds from every stage (DEDUCED, log 21). -/
def execLsCancel (s : State) : Result :=
  served .lsCancel s <|
    if s.mode = .off then reply s { ra := 0 }
    else reply s.unlink { ra := 1, events := unlinkEvents s .cancel }

/-- `RT_TAKE` (R291); a mailbox above 39, which no run reaches, is log 15. -/
def execRtTake (s : State) : Result :=
  served .rtTake s <|
    if s.rtPending then
      reply { s with rtPending := false } { ra := s.rtChan, rb := toHalf (chanFreq s.rtChan.toNat) }
    else raise s .empty

end Sys2Proof.Machine
end

