-- ==== Sys2Proof/Machine/Dispatch.lean ====
section
/-! DEFINITION. One operation of the block: the meaning of every constructor of `Instr` (30_encoding.md rule R104). -/

namespace Sys2Proof.Machine

def exec (i : Instr) (s : State) : Host.Outcome State Fault Refusal :=
  match i with
  | .cmI2f idx => Sys2Proof.Machine.execCmI2f idx s
  | .cmF2i freq => Sys2Proof.Machine.execCmF2i freq s
  | .cmAdv => Sys2Proof.Machine.execCmAdv s
  | .cmHop idx inc => Sys2Proof.Machine.execCmHop idx inc s
  | .whLoad ch start => Sys2Proof.Machine.execWhLoad ch start s
  | .whStep nbits => Sys2Proof.Machine.execWhStep nbits s
  | .whXor ch start data => Sys2Proof.Machine.execWhXor ch start data s
  | .whXors data => Sys2Proof.Machine.execWhXors data s
  | .whRefl data => Sys2Proof.Machine.execWhRefl data s
  | .crcFwd seed data => Sys2Proof.Machine.execCrcFwd seed data s
  | .crcFwdt seed data => Sys2Proof.Machine.execCrcFwdt seed data s
  | .crcRev crc data => Sys2Proof.Machine.execCrcRev crc data s
  | .crcRev24 v => Sys2Proof.Machine.execCrcRev24 v s
  | .crcChk seed data => Sys2Proof.Machine.execCrcChk seed data s
  | .pbAcq => Sys2Proof.Machine.execPbAcq s
  | .pbWrite data => Sys2Proof.Machine.execPbWrite data s
  | .pbRssi sample => Sys2Proof.Machine.execPbRssi sample s
  | .pbCommit chan ts aa => Sys2Proof.Machine.execPbCommit chan ts aa s
  | .pbAbort => Sys2Proof.Machine.execPbAbort s
  | .pbPoll => Sys2Proof.Machine.execPbPoll s
  | .pbRead buf => Sys2Proof.Machine.execPbRead buf s
  | .pbRel buf => Sys2Proof.Machine.execPbRel buf s
  | .pbStat => Sys2Proof.Machine.execPbStat s
  | .acClear => Sys2Proof.Machine.execAcClear s
  | .acSee aa => Sys2Proof.Machine.execAcSee aa s
  | .acScan ch data => Sys2Proof.Machine.execAcScan ch data s
  | .acGet slot => Sys2Proof.Machine.execAcGet slot s
  | .prStart ch => Sys2Proof.Machine.execPrStart ch s
  | .prStop => Sys2Proof.Machine.execPrStop s
  | .prPkt buf => Sys2Proof.Machine.execPrPkt buf s
  | .tick now => Sys2Proof.Machine.execTick now s
  | .prReseed => Sys2Proof.Machine.execPrReseed s
  | .prGet => Sys2Proof.Machine.execPrGet s
  | .prSetaa aa => Sys2Proof.Machine.execPrSetaa aa s
  | .prGetaa => Sys2Proof.Machine.execPrGetaa s
  | .prSetcv on => Sys2Proof.Machine.execPrSetcv on s
  | .prGetcv => Sys2Proof.Machine.execPrGetcv s
  | .prSetto which ticks => Sys2Proof.Machine.execPrSetto which ticks s
  | .lsFollow ch => Sys2Proof.Machine.execLsFollow ch s
  | .lsStop => Sys2Proof.Machine.execLsStop s
  | .lsFilter addr mask => Sys2Proof.Machine.execLsFilter addr mask s
  | .lsConnreq hopinc aa crc winSize winOffset interval ts init adv => Sys2Proof.Machine.execLsConnreq hopinc aa crc winSize winOffset interval ts init adv s
  | .lsUpdate winSize instant interval winOffset => Sys2Proof.Machine.execLsUpdate winSize instant interval winOffset s
  | .lsEvent => Sys2Proof.Machine.execLsEvent s
  | .lsCancel => Sys2Proof.Machine.execLsCancel s
  | .rtTake => Sys2Proof.Machine.execRtTake s

end Sys2Proof.Machine
end

