-- ==== Sys2Proof/Machine/Ports.lean ====
section
/-! DEFINITION. Taking the next request off the two ports (00_scope.md rules R5, R6; 30_encoding.md rules R100, R101, R108;
20_memory.md rule R90). -/

namespace Sys2Proof.Machine

/-- The other agent (R5: there are two). -/
def otherAgent : Agent → Agent
  | .cap => .proc
  | .proc => .cap

/-- Whose request is served next, and the state with that choice taken; none when neither port holds a request. When both do,
either may be served first (R6, U5): the schedule says which, and past its end the free value `Config.arbiter` (log 4). -/
def State.grant (s : State) : Option (Agent × State) :=
  match s.capPort.reqs, s.procPort.reqs with
  | [], [] => none
  | _ :: _, [] => some (.cap, s)
  | [], _ :: _ => some (.proc, s)
  | _ :: _, _ :: _ =>
    match s.arbPlan with
    | g :: plan => some (g, { s with arbPlan := plan })
    | [] => some (Config.arbiter s.arbSeq, { s with arbSeq := s.arbSeq + 1 })

/-- The state in which a request of agent `g` is served: the issuer is the port's agent (R100), and `rest` is what the stream on
that port holds after the request. -/
def State.serving (s : State) (g : Agent) (rest : List Beat) : State :=
  { s.setPort g { s.port g with reqs := rest } with agent := g }

/-- What is on the ports: nothing, a request, an illegal request (each with the state that serves it), or a stream that does not
begin with a whole request. -/
inductive Fetched where
  | idle
  | instr (i : Instr) (s : State)
  | illegal (why : Illegal) (s : State)
  | misframed (why : FrameError)
  deriving DecidableEq, Repr

/-- Take the next request: whose it is, then decode it and take its words and bytes off the stream (R100, R101, R108). -/
def fetch (s : State) : Fetched :=
  match s.grant with
  | none => .idle
  | some (g, t) =>
    match decode (t.port g).reqs with
    | .instr i rest => .instr i (t.serving g rest)
    | .illegal why rest => .illegal why (t.serving g rest)
    | .misframed why => .misframed why

/-- The agent that issues a request given as the opcode table numbers its bits: one that R321 lets issue the operation; for an
`OP` that is not in R104 any agent will do (log 12). -/
def tableIssuer (nbits w : Nat) : Agent :=
  match Op.ofCode (fieldOp (BitVec.ofNat 32 (w % 2 ^ nbits))) with
  | some op => issuer op
  | none => .proc

/-- Put a request at the head of an agent's port, and where the other port also holds one, put the agent first in the schedule, so
that this request is the next to be served. -/
def State.issue (s : State) (g : Agent) (request : List Beat) : State :=
  { s.setPort g { s.port g with reqs := request ++ (s.port g).reqs } with
    arbPlan := if (s.port (otherAgent g)).reqs = [] then s.arbPlan else g :: s.arbPlan }

end Sys2Proof.Machine
end

