-- ==== Sys2Proof/Machine/Step.lean ====
section
/-! DEFINITION. One step of the block: one request served from its decoding to its response (00_scope.md rule R6). -/

namespace Sys2Proof.Machine

/-- One step. With nothing on either port nothing happens (log 6). An instruction runs; an illegal request is answered `ILLEGAL` and
writes no state (R108, R302); a mis-framed stream is outside the block's definition (R101, U4; log 5). -/
def step (s : State) : Host.Outcome State Fault Refusal :=
  match fetch s with
  | .idle => .next s
  | .instr i t => exec i t
  | .illegal _ t => raise t .illegal
  | .misframed why => .fault (.misframed why)

/-- The state with the instruction of table bits `w` issued as the next request, on a port whose agent may issue it (log 12). -/
def State.withFetchWord (s : State) (nbits w : Nat) : State := s.issue (tableIssuer nbits w) (tableRequest nbits w)

end Sys2Proof.Machine
end

