-- ==== Sys2Proof/Safety.lean ====
section
/-! DEFINITION. The terms claims are stated in: which operation a request is, the tables of 60_exceptions.md rules R303 and R321, the
invariants of R25, R42, R43, R191, the transitions of R230 and R270, short runs of operations, and the scan of R216 by bit index. -/

namespace Sys2Proof.Machine

/-! ### Operations and their tables -/

/-- The operation of a request (R104). -/
def opOf : Instr → Op
  | .cmI2f _ => .cmI2f
  | .cmF2i _ => .cmF2i
  | .cmAdv => .cmAdv
  | .cmHop _ _ => .cmHop
  | .whLoad _ _ => .whLoad
  | .whStep _ => .whStep
  | .whXor _ _ _ => .whXor
  | .whXors _ => .whXors
  | .whRefl _ => .whRefl
  | .crcFwd _ _ => .crcFwd
  | .crcFwdt _ _ => .crcFwdt
  | .crcRev _ _ => .crcRev
  | .crcRev24 _ => .crcRev24
  | .crcChk _ _ => .crcChk
  | .pbAcq => .pbAcq
  | .pbWrite _ => .pbWrite
  | .pbRssi _ => .pbRssi
  | .pbCommit _ _ _ => .pbCommit
  | .pbAbort => .pbAbort
  | .pbPoll => .pbPoll
  | .pbRead _ => .pbRead
  | .pbRel _ => .pbRel
  | .pbStat => .pbStat
  | .acClear => .acClear
  | .acSee _ => .acSee
  | .acScan _ _ => .acScan
  | .acGet _ => .acGet
  | .prStart _ => .prStart
  | .prStop => .prStop
  | .prPkt _ => .prPkt
  | .tick _ => .tick
  | .prReseed => .prReseed
  | .prGet => .prGet
  | .prSetaa _ => .prSetaa
  | .prGetaa => .prGetaa
  | .prSetcv _ => .prSetcv
  | .prGetcv => .prGetcv
  | .prSetto _ _ => .prSetto
  | .lsFollow _ => .lsFollow
  | .lsStop => .lsStop
  | .lsFilter _ _ => .lsFilter
  | .lsConnreq _ _ _ _ _ _ _ _ _ => .lsConnreq
  | .lsUpdate _ _ _ _ => .lsUpdate
  | .lsEvent => .lsEvent
  | .lsCancel => .lsCancel
  | .rtTake => .rtTake

/-- The operations only `CAP` may issue (R321, first row). -/
def capOps : List Op := [.pbAcq, .pbWrite, .pbRssi, .pbCommit, .pbAbort, .rtTake, .lsEvent]

/-- The operations only `PROC` may issue (R321, second row). -/
def procOps : List Op :=
  [.pbPoll, .pbRead, .acClear, .acSee, .acScan, .acGet, .prStart, .prStop, .prPkt, .tick, .prReseed, .prGet, .prSetaa, .prGetaa,
   .prSetcv, .prGetcv, .prSetto, .lsFollow, .lsStop, .lsFilter, .lsConnreq, .lsUpdate, .lsCancel]

/-- The statuses beside `OK` and `PERM` with which an operation can end (R303). -/
def statusesOf : Op → List Status
  | .cmI2f => [.range]
  | .cmF2i => [.range]
  | .cmAdv => []
  | .cmHop => [.range]
  | .whLoad => [.range]
  | .whStep => [.range, .notLoaded]
  | .whXor => [.range]
  | .whXors => [.range, .notLoaded]
  | .whRefl => [.range]
  | .crcFwd => [.range]
  | .crcFwdt => [.range]
  | .crcRev => [.range]
  | .crcRev24 => []
  | .crcChk => [.range]
  | .pbAcq => [.badState, .noBuf]
  | .pbWrite => [.range, .badTag, .malformed]
  | .pbRssi => [.badTag]
  | .pbCommit => [.range, .badTag, .malformed]
  | .pbAbort => [.badTag]
  | .pbPoll => [.empty]
  | .pbRead => [.range, .badTag]
  | .pbRel => [.range, .badTag]
  | .pbStat => []
  | .acClear => []
  | .acSee => [.badState]
  | .acScan => [.range, .badState]
  | .acGet => [.range]
  | .prStart => [.range, .badState]
  | .prStop => [.badState]
  | .prPkt => [.range, .badTag]
  | .tick => []
  | .prReseed => [.badState]
  | .prGet => []
  | .prSetaa => [.badState]
  | .prGetaa => []
  | .prSetcv => [.range]
  | .prGetcv => []
  | .prSetto => [.range]
  | .lsFollow => [.range, .badState]
  | .lsStop => [.badState]
  | .lsFilter => []
  | .lsConnreq => [.range, .badState]
  | .lsUpdate => [.badState]
  | .lsEvent => [.badState]
  | .lsCancel => []
  | .rtTake => [.empty]

/-- Whether an agent may issue an operation: one of neither list is open to both (R321). -/
abbrev Permitted (g : Agent) (op : Op) : Prop := (op ∈ capOps → g = .cap) ∧ (op ∈ procOps → g = .proc)

/-- Whether an operand is outside the domain its rule gives it: the conditions under which the rules of 40_channel_mapper.md to
46_link_state.md raise `RANGE` (R107). -/
def outOfDomain : Instr → Prop
  | .cmI2f idx => 39 < idx.toNat
  | .cmF2i freq => freq.toNat < 2402 ∨ 2480 < freq.toNat ∨ freq.toNat % 2 = 1
  | .cmAdv => False
  | .cmHop idx inc => 36 < idx.toNat ∨ 36 < inc.toNat
  | .whLoad ch _ => 39 < ch.toNat
  | .whStep nbits => nbits.toNat < 1 ∨ 32 < nbits.toNat
  | .whXor ch _ data => 39 < ch.toNat ∨ 263 < data.length
  | .whXors data => 263 < data.length
  | .whRefl data => 263 < data.length
  | .crcFwd _ data => 263 < data.length
  | .crcFwdt _ data => 263 < data.length
  | .crcRev _ data => 263 < data.length
  | .crcRev24 _ => False
  | .crcChk _ data => data.length < 3 ∨ 263 < data.length
  | .pbAcq => False
  | .pbWrite data => 263 < data.length
  | .pbRssi _ => False
  | .pbCommit chan _ _ => 39 < chan.toNat
  | .pbAbort => False
  | .pbPoll => False
  | .pbRead buf => 3 < buf.toNat
  | .pbRel buf => 3 < buf.toNat
  | .pbStat => False
  | .acClear => False
  | .acSee _ => False
  | .acScan ch data => 39 < ch.toNat ∨ 263 < data.length
  | .acGet slot => 31 < slot.toNat
  | .prStart ch => 39 < ch.toNat
  | .prStop => False
  | .prPkt buf => 3 < buf.toNat
  | .tick _ => False
  | .prReseed => False
  | .prGet => False
  | .prSetaa _ => False
  | .prGetaa => False
  | .prSetcv on => 1 < on.toNat
  | .prGetcv => False
  | .prSetto which _ => 2 < which.toNat
  | .lsFollow ch => ch.toNat < 37 ∨ 39 < ch.toNat
  | .lsStop => False
  | .lsFilter _ _ => False
  | .lsConnreq hopinc _ _ _ _ _ _ _ _ => 36 < hopinc.toNat
  | .lsUpdate _ _ _ _ => False
  | .lsEvent => False
  | .lsCancel => False
  | .rtTake => False

/-- The values of `OP` that R108 lists as illegal. -/
abbrev UnlistedCode (c : Nat) : Prop :=
  c = 0 ∨ (0x05 ≤ c ∧ c ≤ 0x0F) ∨ (0x15 ≤ c ∧ c ≤ 0x1F) ∨ (0x25 ≤ c ∧ c ≤ 0x2F) ∨ (0x39 ≤ c ∧ c ≤ 0x3F) ∨
    (0x44 ≤ c ∧ c ≤ 0x4F) ∨ (0x5B ≤ c ∧ c ≤ 0x5F) ∨ 0x68 ≤ c

/-- A field that the operation does not use is not 0 (R100, R105). -/
abbrev UnusedFieldSet (op : Op) (cw : Word) : Prop :=
  (op.format.a = false ∧ fieldA cw ≠ 0) ∨ (op.format.b = .unused ∧ fieldB cw ≠ 0) ∨
    (op.format.b = .low ∧ 0xFF < (fieldB cw).toNat)

/-- An operand word breaks R102: a 24-bit value with one of bits 31:24 set, or a 16-bit value with one of bits 31:16 set. Words
counted from 0: `W1` is word 0. -/
abbrev OperandWordBroken (op : Op) (ws : List Word) : Prop :=
  (op ∈ [Op.crcFwd, .crcFwdt, .crcRev, .crcRev24, .crcChk] ∧ 2 ^ 24 ≤ (ws.getD 0 0).toNat) ∨
    (op = .whXor ∧ 2 ^ 16 ≤ (ws.getD 0 0).toNat) ∨
    (op = .lsFilter ∧ (2 ^ 16 ≤ (ws.getD 1 0).toNat ∨ 2 ^ 16 ≤ (ws.getD 3 0).toNat))

/-! ### Runs of operations -/

/-- The state with agent `g`'s request the one being served. -/
def State.as (s : State) (g : Agent) : State := { s with agent := g }

/-- Go on from a next state. -/
def andThen (r : Result) (f : State → Result) : Result :=
  match r with
  | .next t => f t
  | .fault e => .fault e
  | .refused e => .refused e

/-- One request of agent `g`, served. -/
def issued (g : Agent) (i : Instr) (s : State) : Result := exec i (s.as g)

/-- `n` requests of agent `g` for the same operation, served one after the other. -/
def repeated (g : Agent) (i : Instr) : Nat → State → Result
  | 0, s => .next s
  | n + 1, s => andThen (repeated g i n s) (issued g i)

/-- The last response on an agent's port. -/
def State.lastOn (s : State) (g : Agent) : Option Response := (s.port g).resps.getLast?

/-- Buffer `b` is the one being captured: the lowest with the tag, were there several (R181; log 17). -/
abbrev State.CapturingAt (s : State) (b : Fin 4) : Prop :=
  s.pb[b].tag = .capturing ∧ ∀ a : Fin 4, a < b → s.pb[a].tag ≠ .capturing

/-- No buffer is being captured. -/
abbrev State.NoneCapturing (s : State) : Prop := ∀ a : Fin 4, s.pb[a].tag ≠ .capturing

/-! ### Invariants -/

/-- The rows of the table of R25: the mode, the link state, the stages. -/
def tripleRows : List (Mode × LState × List Stage) :=
  [(.off, .inactive, [.idle]),
   (.promisc, .listening, [.discovery, .crcRecovery, .hopIntervalRecovery, .hopIncrementRecovery]),
   (.promisc, .connected, [.connectionFollow]),
   (.follow, .listening, [.idle]),
   (.follow, .connPending, [.connectionFollow]),
   (.follow, .connected, [.connectionFollow])]

/-- How many rows of the table of R25 hold in a state. -/
def State.rowsHolding (s : State) : Nat :=
  tripleRows.countP fun r => r.1 == s.mode && r.2.1 == s.lstate && r.2.2.contains s.stage

/-- The triple of R25 stands in one row of its table. -/
abbrev State.TripleLegal (s : State) : Prop :=
  (s.mode = .off ∧ s.lstate = .inactive ∧ s.stage = .idle) ∨
  (s.mode = .promisc ∧ s.lstate = .listening ∧
    (s.stage = .discovery ∨ s.stage = .crcRecovery ∨ s.stage = .hopIntervalRecovery ∨ s.stage = .hopIncrementRecovery)) ∨
  (s.mode = .promisc ∧ s.lstate = .connected ∧ s.stage = .connectionFollow) ∨
  (s.mode = .follow ∧ s.lstate = .listening ∧ s.stage = .idle) ∨
  (s.mode = .follow ∧ s.lstate = .connPending ∧ s.stage = .connectionFollow) ∨
  (s.mode = .follow ∧ s.lstate = .connected ∧ s.stage = .connectionFollow)

/-- A buffer's memory is in canonical form and lists no offset past 262 (R43, R73). -/
abbrev Buffer.MemoryWf (p : Buffer) : Prop := p.data.wf = true ∧ ∀ c ∈ p.data, c.1 < Config.pbCap

/-- The declared length of a buffer's body, from byte 1 (R185). -/
abbrev Buffer.declaredLength (p : Buffer) (ps : Params) : Nat := declared ps (p.data.read 1)

/-- The pool invariants (a) to (d) of R191 (R43), with what (d) needs of a buffer still capturing, and the form of the memory. -/
abbrev State.PoolWf (s : State) : Prop :=
  (∀ a b : Fin 4, s.pb[a].tag = .capturing → s.pb[b].tag = .capturing → a = b) ∧
  s.pbq.Nodup ∧
  (∀ b : Fin 4, b ∈ s.pbq ↔ s.pb[b].tag = .queued) ∧
  (∀ b : Fin 4, s.pb[b].len.toNat ≤ Config.pbCap) ∧
  (∀ b : Fin 4, s.pb[b].tag = .queued →
    s.pb[b].len.toNat = 2 + s.pb[b].declaredLength s.params + 3 ∧ s.pb[b].declaredLength s.params ≤ s.params.maxPduLen) ∧
  (∀ b : Fin 4, s.pb[b].tag = .capturing → 2 ≤ s.pb[b].len.toNat → s.pb[b].declaredLength s.params ≤ s.params.maxPduLen) ∧
  (∀ b : Fin 4, s.pb[b].MemoryWf)

/-- The cache invariant of R42. -/
abbrev State.CacheWf (s : State) : Prop :=
  (∀ i j : Fin 32, s.ac[i].valid = true → s.ac[j].valid = true → s.ac[i].aa = s.ac[j].aa → i = j) ∧
  (∀ i : Fin 32, s.ac[i].valid = true → 1 ≤ s.ac[i].count.toNat)

/-- The stages in which the seed is known (R239). -/
abbrev Stage.SeedKnown (st : Stage) : Prop :=
  st = .hopIntervalRecovery ∨ st = .hopIncrementRecovery ∨ st = .connectionFollow

/-- The ranges the rules give the elements, and which values are valid in which stage (R28, R30, R31, R38, R44, R45, R246, R247,
R283). -/
abbrev State.ValuesWf (s : State) : Prop :=
  s.params.Wf ∧ s.chan.toNat ≤ 39 ∧ s.discChan.toNat ≤ 39 ∧ s.rtChan.toNat ≤ 39 ∧
  (∀ b : Fin 4, s.pb[b].chan.toNat ≤ 39) ∧
  s.whCap.ch.toNat ≤ 39 ∧ s.whProc.ch.toNat ≤ 39 ∧ s.whCap.pos.toNat ≤ 126 ∧ s.whProc.pos.toNat ≤ 126 ∧
  (s.hopincValid = true → s.hopinc.toNat ≤ 36) ∧
  (s.crcVerified = true → s.crcRaw = rev24 s.crcLfsr) ∧
  s.hiMatch.toNat ≤ 5 ∧
  (s.stage = .crcRecovery → s.aaValid = true) ∧
  (s.stage.SeedKnown → s.aaValid = true ∧ s.crcVerified = true) ∧
  (s.stage = .hopIntervalRecovery → s.hiMatch.toNat ≤ 4) ∧
  (s.stage = .hopIncrementRecovery →
    s.intervalValid = true ∧ s.interval ≠ 0#16 ∧ (s.chan = s.params.probeA ∨ s.chan = s.params.probeB) ∧
    (s.hpFirstValid = true → s.chan = s.params.probeB)) ∧
  (s.stage = .connectionFollow → s.intervalValid = true ∧ s.hopincValid = true ∧ s.chan.toNat ≤ 36)

/-! ### Values without a flag -/

/-- A value with its flag: the value when the flag is 1, else the one blank. -/
def shown {w : Nat} (flag : Bool) (v : BitVec w) : BitVec w := if flag then v else 0

/-- A cache slot less the value elements that hold no value (R48). -/
def AcSlot.shown (e : AcSlot) : AcSlot :=
  { e with aa := Machine.shown e.valid e.aa, count := Machine.shown e.valid e.count }

/-- A stream context less the value elements that hold no value (R48). -/
def WhCtx.shown (c : WhCtx) : WhCtx := { c with ch := Machine.shown c.loaded c.ch, pos := Machine.shown c.loaded c.pos }

/-- The state less every value element that holds no value because its flag is 0: the list of R48. -/
def State.shown (s : State) : State :=
  { s with
    aa := Machine.shown s.aaValid s.aa
    crcLfsr := Machine.shown s.crcVerified s.crcLfsr
    crcRaw := Machine.shown s.crcVerified s.crcRaw
    interval := Machine.shown s.intervalValid s.interval
    hopinc := Machine.shown s.hopincValid s.hopinc
    updWinSize := Machine.shown s.updPending s.updWinSize
    updWinOffset := Machine.shown s.updPending s.updWinOffset
    updInterval := Machine.shown s.updPending s.updInterval
    updInstant := Machine.shown s.updPending s.updInstant
    hpFirstTs := Machine.shown s.hpFirstValid s.hpFirstTs
    stageTs := Machine.shown s.stageTsValid s.stageTs
    rtChan := Machine.shown s.rtPending s.rtChan
    ac := s.ac.map AcSlot.shown
    whCap := s.whCap.shown
    whProc := s.whProc.shown }

/-! ### Transitions -/

/-- The triple of R25. -/
structure Triple where
  mode : Mode
  lstate : LState
  stage : Stage
  deriving DecidableEq, Repr

/-- The triple of a state. -/
def State.triple (s : State) : Triple := { mode := s.mode, lstate := s.lstate, stage := s.stage }

/-- `OFF`. -/
def tripleOff : Triple := { mode := .off, lstate := .inactive, stage := .idle }

/-- `PROMISC` with a recovery stage. -/
def triplePromisc (st : Stage) : Triple := { mode := .promisc, lstate := .listening, stage := st }

/-- `PROMISC`, following. -/
def triplePromiscConnected : Triple := { mode := .promisc, lstate := .connected, stage := .connectionFollow }

/-- `FOLLOW`, waiting for a request. -/
def tripleFollowListening : Triple := { mode := .follow, lstate := .listening, stage := .idle }

/-- `FOLLOW`, with a request taken. -/
def tripleFollow (l : LState) : Triple := { mode := .follow, lstate := l, stage := .connectionFollow }

/-- The triples of `PROMISC` mode, in the order of the stages. -/
def promiscTriples : List Triple :=
  [triplePromisc .discovery, triplePromisc .crcRecovery, triplePromisc .hopIntervalRecovery,
   triplePromisc .hopIncrementRecovery, triplePromiscConnected]

/-- The triples of `FOLLOW` mode. -/
def followTriples : List Triple := [tripleFollowListening, tripleFollow .connPending, tripleFollow .connected]

/-- The changes of the triple that an operation can make: the rows of R230 and R270, and what R290 gives `LS_CANCEL` (log 21). An
operation that is not named changes the triple in no row. -/
def transitions : Op → List (Triple × Triple)
  | .prStart => [(tripleOff, triplePromisc .discovery)]
  | .acSee => [(triplePromisc .discovery, triplePromisc .crcRecovery)]
  | .acScan => [(triplePromisc .discovery, triplePromisc .crcRecovery)]
  | .prSetaa => promiscTriples.map fun x => (x, triplePromisc .crcRecovery)
  | .prReseed => promiscTriples.map fun x => (x, triplePromisc .discovery)
  | .prStop => promiscTriples.map fun x => (x, tripleOff)
  | .prPkt =>
    [(triplePromisc .crcRecovery, triplePromisc .hopIntervalRecovery),
     (triplePromisc .hopIntervalRecovery, triplePromisc .hopIncrementRecovery),
     (triplePromisc .hopIncrementRecovery, triplePromiscConnected),
     (triplePromisc .hopIncrementRecovery, triplePromisc .discovery),
     (tripleFollow .connPending, tripleFollow .connected)]
  | .tick =>
    [(triplePromisc .crcRecovery, triplePromisc .discovery),
     (triplePromisc .hopIntervalRecovery, triplePromisc .discovery),
     (triplePromisc .hopIncrementRecovery, triplePromisc .discovery),
     (triplePromiscConnected, triplePromisc .discovery),
     (tripleFollow .connPending, tripleOff), (tripleFollow .connected, tripleOff)]
  | .lsFollow => [(tripleOff, tripleFollowListening)]
  | .lsStop => followTriples.map fun x => (x, tripleOff)
  | .lsConnreq => [(tripleFollowListening, tripleFollow .connPending)]
  | .lsCancel =>
    (promiscTriples.map fun x => (x, triplePromisc .discovery)) ++ (followTriples.map fun x => (x, tripleOff))
  | .cmI2f => []
  | .cmF2i => []
  | .cmAdv => []
  | .cmHop => []
  | .whLoad => []
  | .whStep => []
  | .whXor => []
  | .whXors => []
  | .whRefl => []
  | .crcFwd => []
  | .crcFwdt => []
  | .crcRev => []
  | .crcRev24 => []
  | .crcChk => []
  | .pbAcq => []
  | .pbWrite => []
  | .pbRssi => []
  | .pbCommit => []
  | .pbAbort => []
  | .pbPoll => []
  | .pbRead => []
  | .pbRel => []
  | .pbStat => []
  | .acClear => []
  | .acGet => []
  | .prGet => []
  | .prGetaa => []
  | .prSetcv => []
  | .prGetcv => []
  | .prSetto => []
  | .lsFilter => []
  | .lsUpdate => []
  | .lsEvent => []
  | .rtTake => []

/-- The moves of a buffer's owner tag and the operations that make them (R180). -/
def tagMoves : Tag → Tag → List Op
  | .free, .capturing => [.pbAcq]
  | .capturing, .queued => [.pbCommit]
  | .queued, .free => [.pbRel]
  | .capturing, .free => [.pbAbort, .pbWrite, .pbCommit]
  | .free, .free => []
  | .free, .queued => []
  | .capturing, .capturing => []
  | .queued, .queued => []
  | .queued, .capturing => []

/-! ### The scan by bit index -/

/-- `a[k]`: bit `k` of the air bit sequence of a receive-order byte string (R81, R216). -/
def airBit (data : List Byte) (k : Nat) : Bool := (data.getD (k / 8) 0).getLsbD (7 - k % 8)

/-- `pat(ch, h)[k]` for the header whose first byte is `hb` (R215). -/
def patternBit (ch hb : Byte) (k : Nat) : Bool := (if k < 8 then hb.getLsbD k else false) ^^ wbit ch k

/-- Whether `a[p .. p+15]` is one of the four patterns (R216). -/
def matchAt (ch : Byte) (data : List Byte) (p : Nat) : Bool :=
  headerBytes.any fun hb => (List.range 16).all fun k => airBit data (p + k) == patternBit ch hb k

/-- `E[m]` of the window at position `p`, before dewhitening: bit `k` is `a[p - 32 + 8m + k]` (R216). -/
def octetAt (data : List Byte) (p m : Nat) : Byte := byteOf ((List.range 8).map fun k => airBit data (p - 32 + 8 * m + k))

/-- `E[m]`, for `m` from 4 on, dewhitened: bit `k` XOR-ed with `wbit(ch, 8(m - 4) + k)` (R216). -/
def dewhitenedAt (ch : Byte) (data : List Byte) (p m : Nat) : Byte :=
  byteOf ((List.range 8).map fun k => airBit data (p - 32 + 8 * m + k) ^^ wbit ch (8 * (m - 4) + k))

/-- The candidate address of position `p` (R216, R83). -/
def candidateAt (data : List Byte) (p : Nat) : Word :=
  le32 (octetAt data p 0) (octetAt data p 1) (octetAt data p 2) (octetAt data p 3)

/-- What the loop of R216 does at one position, unless a promotion has ended it. -/
def scanAt (ch : Byte) (data : List Byte) (acc : Scan) (p : Nat) : Scan :=
  if acc.promoted = true ∨ matchAt ch data p = false then acc
  else
    let cand := candidateAt data p
    let ev := Event.cand (toHalf p) cand (dewhitenedAt ch data p 4) (dewhitenedAt ch data p 5)
    let r := see acc.state cand
    { state := if r.2.promoted then r.1.promote cand else r.1
      found := acc.found + 1
      last := cand
      promoted := r.2.promoted
      events := acc.events ++ ev :: (if r.2.promoted then promoteEvents r.1 cand else []) }

/-- The positions of R216: 32 to `8n - 56`, in increasing order. -/
def scanPositions (data : List Byte) : List Nat := (List.range (8 * data.length - 87)).map fun k => 32 + k

/-- The scan of R216, position by position. -/
def scanByIndex (s : State) (ch : Byte) (data : List Byte) : Scan :=
  (scanPositions data).foldl (scanAt ch data) { state := s, found := 0, last := 0, promoted := false, events := [] }

/-! ### Packets one after the other -/

/-- A packet presented: buffer 0 holds it and `PROC` issues `PR_PKT` on it (R237). The rest of the pool does not matter to the stage
machine, so one buffer stands for whichever the packet came in. -/
def arrive (s : State) (p : Buffer) : Result := issued .proc (.prPkt 0) (s.setBuf 0 p)

/-- Packets presented one after the other. -/
def arrivals : State → List Buffer → Result
  | s, [] => .next s
  | s, p :: ps => andThen (arrive s p) fun t => arrivals t ps

/-- A packet that is on the tracked address and passes the CRC gate (R239). -/
abbrev Buffer.passesGates (p : Buffer) (s : State) : Prop :=
  p.tag = .queued ∧ p.aa = s.aa ∧ (s.crcVerify = false ∨ crcOk s.crcLfsr p.bytes = true)

/-- Every packet of a run ends a gap of at least `MIN_GAP`, and with it the smallest gap so far gives the estimate `est` (R242). -/
def agreeing (ps : Params) (est : Nat) : Ts → Ts → List Buffer → Prop
  | _, _, [] => True
  | prev, smallest, p :: rest =>
    ps.minGap ≤ (tdiff p.ts prev).toNat ∧ estimate ps (smaller smallest (tdiff p.ts prev)) = est ∧
      agreeing ps est p.ts (smaller smallest (tdiff p.ts prev)) rest

end Sys2Proof.Machine
end

