-- ==== Sys2Proof/Laws/PerInstr.lean ====
section
/-! SUPPORT. The per-instruction family: every instruction's encoding is one of its row of spec/opcode_table.json (30_encoding.md
rules R100, R104, R105): the command word has the row's fixed bits, and the row's operand words and data bytes follow it. -/

namespace Sys2Proof.Laws

open Sys2Proof.Machine

/-- What spec/opcode_table.json says of a row's encoding. -/
structure Row where
  mask : Word
  value : Word
  words : Nat
  hasData : Bool
  deriving DecidableEq, Repr

/-- The 46 rows of spec/opcode_table.json, column by column as the table has them. -/
def row : Op → Row
  | .cmI2f => { mask := 0xFFFF00FF#32, value := 0x00000001#32, words := 0, hasData := false }
  | .cmF2i => { mask := 0x0000FFFF#32, value := 0x00000002#32, words := 0, hasData := false }
  | .cmAdv => { mask := 0xFFFFFFFF#32, value := 0x00000003#32, words := 0, hasData := false }
  | .cmHop => { mask := 0xFF0000FF#32, value := 0x00000004#32, words := 0, hasData := false }
  | .whLoad => { mask := 0x000000FF#32, value := 0x00000010#32, words := 0, hasData := false }
  | .whStep => { mask := 0xFFFF00FF#32, value := 0x00000011#32, words := 0, hasData := false }
  | .whXor => { mask := 0x000000FF#32, value := 0x00000012#32, words := 1, hasData := true }
  | .whXors => { mask := 0x0000FFFF#32, value := 0x00000013#32, words := 0, hasData := true }
  | .whRefl => { mask := 0x0000FFFF#32, value := 0x00000014#32, words := 0, hasData := true }
  | .crcFwd => { mask := 0x0000FFFF#32, value := 0x00000020#32, words := 1, hasData := true }
  | .crcFwdt => { mask := 0x0000FFFF#32, value := 0x00000021#32, words := 1, hasData := true }
  | .crcRev => { mask := 0x0000FFFF#32, value := 0x00000022#32, words := 1, hasData := true }
  | .crcRev24 => { mask := 0xFFFFFFFF#32, value := 0x00000023#32, words := 1, hasData := false }
  | .crcChk => { mask := 0x0000FFFF#32, value := 0x00000024#32, words := 1, hasData := true }
  | .pbAcq => { mask := 0xFFFFFFFF#32, value := 0x00000030#32, words := 0, hasData := false }
  | .pbWrite => { mask := 0x0000FFFF#32, value := 0x00000031#32, words := 0, hasData := true }
  | .pbRssi => { mask := 0xFFFF00FF#32, value := 0x00000032#32, words := 0, hasData := false }
  | .pbCommit => { mask := 0xFFFF00FF#32, value := 0x00000033#32, words := 2, hasData := false }
  | .pbAbort => { mask := 0xFFFFFFFF#32, value := 0x00000034#32, words := 0, hasData := false }
  | .pbPoll => { mask := 0xFFFFFFFF#32, value := 0x00000035#32, words := 0, hasData := false }
  | .pbRead => { mask := 0xFFFF00FF#32, value := 0x00000036#32, words := 0, hasData := false }
  | .pbRel => { mask := 0xFFFF00FF#32, value := 0x00000037#32, words := 0, hasData := false }
  | .pbStat => { mask := 0xFFFFFFFF#32, value := 0x00000038#32, words := 0, hasData := false }
  | .acClear => { mask := 0xFFFFFFFF#32, value := 0x00000040#32, words := 0, hasData := false }
  | .acSee => { mask := 0xFFFFFFFF#32, value := 0x00000041#32, words := 1, hasData := false }
  | .acScan => { mask := 0x000000FF#32, value := 0x00000042#32, words := 0, hasData := true }
  | .acGet => { mask := 0xFFFF00FF#32, value := 0x00000043#32, words := 0, hasData := false }
  | .prStart => { mask := 0xFFFF00FF#32, value := 0x00000050#32, words := 0, hasData := false }
  | .prStop => { mask := 0xFFFFFFFF#32, value := 0x00000051#32, words := 0, hasData := false }
  | .prPkt => { mask := 0xFFFF00FF#32, value := 0x00000052#32, words := 0, hasData := false }
  | .tick => { mask := 0xFFFFFFFF#32, value := 0x00000053#32, words := 1, hasData := false }
  | .prReseed => { mask := 0xFFFFFFFF#32, value := 0x00000054#32, words := 0, hasData := false }
  | .prGet => { mask := 0xFFFFFFFF#32, value := 0x00000055#32, words := 0, hasData := false }
  | .prSetaa => { mask := 0xFFFFFFFF#32, value := 0x00000056#32, words := 1, hasData := false }
  | .prGetaa => { mask := 0xFFFFFFFF#32, value := 0x00000057#32, words := 0, hasData := false }
  | .prSetcv => { mask := 0xFFFF00FF#32, value := 0x00000058#32, words := 0, hasData := false }
  | .prGetcv => { mask := 0xFFFFFFFF#32, value := 0x00000059#32, words := 0, hasData := false }
  | .prSetto => { mask := 0xFFFF00FF#32, value := 0x0000005A#32, words := 1, hasData := false }
  | .lsFollow => { mask := 0xFFFF00FF#32, value := 0x00000060#32, words := 0, hasData := false }
  | .lsStop => { mask := 0xFFFFFFFF#32, value := 0x00000061#32, words := 0, hasData := false }
  | .lsFilter => { mask := 0xFFFFFFFF#32, value := 0x00000062#32, words := 4, hasData := false }
  | .lsConnreq => { mask := 0xFFFF00FF#32, value := 0x00000063#32, words := 7, hasData := false }
  | .lsUpdate => { mask := 0x000000FF#32, value := 0x00000064#32, words := 1, hasData := false }
  | .lsEvent => { mask := 0xFFFFFFFF#32, value := 0x00000065#32, words := 0, hasData := false }
  | .lsCancel => { mask := 0xFFFFFFFF#32, value := 0x00000066#32, words := 0, hasData := false }
  | .rtTake => { mask := 0xFFFFFFFF#32, value := 0x00000067#32, words := 0, hasData := false }

/-- The encoding of an instruction is an encoding of its row. -/
def EncodingMatchesRow.Statement (i : Instr) : Prop :=
  ∃ (cw : Word) (ws : List Word),
    encode i = .word cw :: (ws.map .word ++ i.data.map .byte) ∧ cw &&& (row (opOf i)).mask = (row (opOf i)).value ∧
      ws.length = (row (opOf i)).words ∧ ((row (opOf i)).hasData = false → i.data = [])

/-- A command word under a mask of whole fields (R100). -/
theorem cmdWord_and (op : Op) (a : Byte) (b : Half) (mb : Half) (ma mo : Byte) :
    cmdWord op a b &&& (mb ++ (ma ++ mo) : BitVec (16 + (8 + 8))) =
      ((b &&& mb) ++ ((a &&& ma) ++ (op.code &&& mo)) : BitVec (16 + (8 + 8))) := by
  rw [cmdWord, BitVec.and_append, BitVec.and_append]

theorem matches_a {op : Op} {a : Byte} : cmdWord op a 0 &&& 0xFFFF00FF#32 = op.code.setWidth 32 := by
  refine (cmdWord_and op a 0 0xFFFF#16 0#8 0xFF#8).trans ?_
  rw [BitVec.and_zero]
  cases op <;> rfl

theorem matches_b {op : Op} {b : Half} : cmdWord op 0 b &&& 0x0000FFFF#32 = op.code.setWidth 32 := by
  refine (cmdWord_and op 0 b 0#16 0xFF#8 0xFF#8).trans ?_
  rw [BitVec.and_zero]
  cases op <;> rfl

theorem matches_none {op : Op} : cmdWord op 0 0 &&& 0xFFFFFFFF#32 = op.code.setWidth 32 := by
  cases op <;> rfl

theorem matches_ab {op : Op} {a : Byte} {b : Half} : cmdWord op a b &&& 0x000000FF#32 = op.code.setWidth 32 := by
  refine (cmdWord_and op a b 0#16 0#8 0xFF#8).trans ?_
  rw [BitVec.and_zero, BitVec.and_zero]
  cases op <;> rfl

/-- The second operand of `CM_HOP` stands in bits 7:0 of the field `B` (R105). -/
theorem matches_hop {op : Op} {a x : Byte} :
    cmdWord op a (x.setWidth 16) &&& 0xFF0000FF#32 = op.code.setWidth 32 := by
  refine (cmdWord_and op a (x.setWidth 16) 0xFF00#16 0#8 0xFF#8).trans ?_
  have hx : x.setWidth 16 &&& 0xFF00#16 = 0#16 := by
    revert x
    decide
  rw [BitVec.and_zero, hx]
  cases op <;> rfl

/-- An instruction encoded with `request` has the statement when its command word has the row's fixed bits. -/
theorem EncodingMatchesRow.of_request {i : Instr} {op : Op} {a : Byte} {b : Half} {ws : List Word}
    (he : encode i = request op a b ws i.data) (hv : (row (opOf i)).value = op.code.setWidth 32)
    (hw : ws.length = (row (opOf i)).words) (hd : ((row (opOf i)).hasData || i.data.isEmpty) = true)
    (hm : cmdWord op a b &&& (row (opOf i)).mask = op.code.setWidth 32) : EncodingMatchesRow.Statement i :=
  ⟨cmdWord op a b, ws, he, hm.trans hv.symm, hw, fun h => by simpa [h] using hd⟩

theorem EncodingMatchesRow.cmI2f (idx : Byte) : EncodingMatchesRow.Statement (.cmI2f idx) :=
  EncodingMatchesRow.of_request rfl rfl rfl rfl matches_a

theorem EncodingMatchesRow.cmF2i (freq : Half) : EncodingMatchesRow.Statement (.cmF2i freq) :=
  EncodingMatchesRow.of_request rfl rfl rfl rfl matches_b

theorem EncodingMatchesRow.cmAdv : EncodingMatchesRow.Statement .cmAdv :=
  EncodingMatchesRow.of_request rfl rfl rfl rfl matches_none

theorem EncodingMatchesRow.cmHop (idx inc : Byte) : EncodingMatchesRow.Statement (.cmHop idx inc) :=
  EncodingMatchesRow.of_request rfl rfl rfl rfl matches_hop

theorem EncodingMatchesRow.whLoad (ch : Byte) (start : Half) : EncodingMatchesRow.Statement (.whLoad ch start) :=
  EncodingMatchesRow.of_request rfl rfl rfl rfl matches_ab

theorem EncodingMatchesRow.whStep (nbits : Byte) : EncodingMatchesRow.Statement (.whStep nbits) :=
  EncodingMatchesRow.of_request rfl rfl rfl rfl matches_a

theorem EncodingMatchesRow.whXor (ch : Byte) (start : Half) (data : List Byte) :
    EncodingMatchesRow.Statement (.whXor ch start data) :=
  EncodingMatchesRow.of_request rfl rfl rfl rfl matches_ab

theorem EncodingMatchesRow.whXors (data : List Byte) :
    EncodingMatchesRow.Statement (.whXors data) :=
  EncodingMatchesRow.of_request rfl rfl rfl rfl matches_b

theorem EncodingMatchesRow.whRefl (data : List Byte) : EncodingMatchesRow.Statement (.whRefl data) :=
  EncodingMatchesRow.of_request rfl rfl rfl rfl matches_b

theorem EncodingMatchesRow.crcFwd (seed : Crc) (data : List Byte) : EncodingMatchesRow.Statement (.crcFwd seed data) :=
  EncodingMatchesRow.of_request rfl rfl rfl rfl matches_b

theorem EncodingMatchesRow.crcFwdt (seed : Crc) (data : List Byte) : EncodingMatchesRow.Statement (.crcFwdt seed data) :=
  EncodingMatchesRow.of_request rfl rfl rfl rfl matches_b

theorem EncodingMatchesRow.crcRev (crc : Crc) (data : List Byte) : EncodingMatchesRow.Statement (.crcRev crc data) :=
  EncodingMatchesRow.of_request rfl rfl rfl rfl matches_b

theorem EncodingMatchesRow.crcRev24 (v : Crc) : EncodingMatchesRow.Statement (.crcRev24 v) :=
  EncodingMatchesRow.of_request rfl rfl rfl rfl matches_none

theorem EncodingMatchesRow.crcChk (seed : Crc) (data : List Byte) : EncodingMatchesRow.Statement (.crcChk seed data) :=
  EncodingMatchesRow.of_request rfl rfl rfl rfl matches_b

theorem EncodingMatchesRow.pbAcq : EncodingMatchesRow.Statement .pbAcq :=
  EncodingMatchesRow.of_request rfl rfl rfl rfl matches_none

theorem EncodingMatchesRow.pbWrite (data : List Byte) : EncodingMatchesRow.Statement (.pbWrite data) :=
  EncodingMatchesRow.of_request rfl rfl rfl rfl matches_b

theorem EncodingMatchesRow.pbRssi (sample : Byte) : EncodingMatchesRow.Statement (.pbRssi sample) :=
  EncodingMatchesRow.of_request rfl rfl rfl rfl matches_a

theorem EncodingMatchesRow.pbCommit (chan : Byte) (ts : Ts) (aa : Word) : EncodingMatchesRow.Statement (.pbCommit chan ts aa) :=
  EncodingMatchesRow.of_request rfl rfl rfl rfl matches_a

theorem EncodingMatchesRow.pbAbort : EncodingMatchesRow.Statement .pbAbort :=
  EncodingMatchesRow.of_request rfl rfl rfl rfl matches_none

theorem EncodingMatchesRow.pbPoll : EncodingMatchesRow.Statement .pbPoll :=
  EncodingMatchesRow.of_request rfl rfl rfl rfl matches_none

theorem EncodingMatchesRow.pbRead (buf : Byte) : EncodingMatchesRow.Statement (.pbRead buf) :=
  EncodingMatchesRow.of_request rfl rfl rfl rfl matches_a

theorem EncodingMatchesRow.pbRel (buf : Byte) : EncodingMatchesRow.Statement (.pbRel buf) :=
  EncodingMatchesRow.of_request rfl rfl rfl rfl matches_a

theorem EncodingMatchesRow.pbStat : EncodingMatchesRow.Statement .pbStat :=
  EncodingMatchesRow.of_request rfl rfl rfl rfl matches_none

theorem EncodingMatchesRow.acClear : EncodingMatchesRow.Statement .acClear :=
  EncodingMatchesRow.of_request rfl rfl rfl rfl matches_none

theorem EncodingMatchesRow.acSee (aa : Word) : EncodingMatchesRow.Statement (.acSee aa) :=
  EncodingMatchesRow.of_request rfl rfl rfl rfl matches_none

theorem EncodingMatchesRow.acScan (ch : Byte) (data : List Byte) : EncodingMatchesRow.Statement (.acScan ch data) :=
  EncodingMatchesRow.of_request rfl rfl rfl rfl matches_ab

theorem EncodingMatchesRow.acGet (slot : Byte) : EncodingMatchesRow.Statement (.acGet slot) :=
  EncodingMatchesRow.of_request rfl rfl rfl rfl matches_a

theorem EncodingMatchesRow.prStart (ch : Byte) : EncodingMatchesRow.Statement (.prStart ch) :=
  EncodingMatchesRow.of_request rfl rfl rfl rfl matches_a

theorem EncodingMatchesRow.prStop : EncodingMatchesRow.Statement .prStop :=
  EncodingMatchesRow.of_request rfl rfl rfl rfl matches_none

theorem EncodingMatchesRow.prPkt (buf : Byte) : EncodingMatchesRow.Statement (.prPkt buf) :=
  EncodingMatchesRow.of_request rfl rfl rfl rfl matches_a

theorem EncodingMatchesRow.tick (now : Ts) : EncodingMatchesRow.Statement (.tick now) :=
  EncodingMatchesRow.of_request rfl rfl rfl rfl matches_none

theorem EncodingMatchesRow.prReseed : EncodingMatchesRow.Statement .prReseed :=
  EncodingMatchesRow.of_request rfl rfl rfl rfl matches_none

theorem EncodingMatchesRow.prGet : EncodingMatchesRow.Statement .prGet :=
  EncodingMatchesRow.of_request rfl rfl rfl rfl matches_none

theorem EncodingMatchesRow.prSetaa (aa : Word) : EncodingMatchesRow.Statement (.prSetaa aa) :=
  EncodingMatchesRow.of_request rfl rfl rfl rfl matches_none

theorem EncodingMatchesRow.prGetaa : EncodingMatchesRow.Statement .prGetaa :=
  EncodingMatchesRow.of_request rfl rfl rfl rfl matches_none

theorem EncodingMatchesRow.prSetcv (on : Byte) : EncodingMatchesRow.Statement (.prSetcv on) :=
  EncodingMatchesRow.of_request rfl rfl rfl rfl matches_a

theorem EncodingMatchesRow.prGetcv : EncodingMatchesRow.Statement .prGetcv :=
  EncodingMatchesRow.of_request rfl rfl rfl rfl matches_none

theorem EncodingMatchesRow.prSetto (which : Byte) (ticks : Word) : EncodingMatchesRow.Statement (.prSetto which ticks) :=
  EncodingMatchesRow.of_request rfl rfl rfl rfl matches_a

theorem EncodingMatchesRow.lsFollow (ch : Byte) : EncodingMatchesRow.Statement (.lsFollow ch) :=
  EncodingMatchesRow.of_request rfl rfl rfl rfl matches_a

theorem EncodingMatchesRow.lsStop : EncodingMatchesRow.Statement .lsStop :=
  EncodingMatchesRow.of_request rfl rfl rfl rfl matches_none

theorem EncodingMatchesRow.lsFilter (addr mask : Addr48) : EncodingMatchesRow.Statement (.lsFilter addr mask) :=
  EncodingMatchesRow.of_request rfl rfl rfl rfl matches_none

theorem EncodingMatchesRow.lsConnreq (hopinc : Byte) (aa : Word) (crc : Crc) (winSize : Byte) (winOffset interval : Half)
    (ts : Ts) (init adv : Addr48) :
    EncodingMatchesRow.Statement (.lsConnreq hopinc aa crc winSize winOffset interval ts init adv) :=
  EncodingMatchesRow.of_request rfl rfl rfl rfl matches_a

theorem EncodingMatchesRow.lsUpdate (winSize : Byte) (instant interval winOffset : Half) :
    EncodingMatchesRow.Statement (.lsUpdate winSize instant interval winOffset) :=
  EncodingMatchesRow.of_request rfl rfl rfl rfl matches_ab

theorem EncodingMatchesRow.lsEvent : EncodingMatchesRow.Statement .lsEvent :=
  EncodingMatchesRow.of_request rfl rfl rfl rfl matches_none

theorem EncodingMatchesRow.lsCancel : EncodingMatchesRow.Statement .lsCancel :=
  EncodingMatchesRow.of_request rfl rfl rfl rfl matches_none

theorem EncodingMatchesRow.rtTake : EncodingMatchesRow.Statement .rtTake :=
  EncodingMatchesRow.of_request rfl rfl rfl rfl matches_none

end Sys2Proof.Laws
end

