-- ==== Sys2Proof/Certificates/Slice0/Obligations.lean ====
section
/-! DEFINITION. The statements for the provers. Each docstring cites the rules of spec/ it formalises. A statement of an
operation's result is an equation for `exec`: it says that the operation completes, what it answers and every element it writes;
what the record update does not name is unchanged (its frame). `State.answer` adds one response to the port whose request is being
served and writes nothing else (`EveryRequestAnsweredOnce`). -/

open Sys2Proof Sys2Proof.Machine

/-! ### Encoding and the two ports -/

/-- Decoding an encoded well-formed request, whatever follows it on the stream, gives it back and leaves the rest (R100 to R106). -/
def Obligations.DecodeInvertsEncode : Prop :=
  ∀ (i : Instr) (rest : List Beat), i.Wf → decode (encode i ++ rest) = .instr i rest

/-- A stream that decodes to an instruction begins with exactly that instruction's encoding: each request has one meaning and each
meaning one request (R104, R109). -/
def Obligations.DecodeOnlyEncodings : Prop :=
  ∀ (st : List Beat) (i : Instr) (rest : List Beat), decode st = .instr i rest → i.Wf ∧ st = encode i ++ rest

/-- Every instruction's encoding is one of its row of the opcode table: fixed bits, operand words, data (R104, R105). -/
def Obligations.EncodingsMatchTheTable : Prop := ∀ i : Instr, Sys2Proof.Laws.EncodingMatchesRow.Statement i

/-- Request words written out from the tables of R104 and from the examples of R273, R275 and R282 decode to what they stand for. -/
def Obligations.SampleRequestsDecode : Prop :=
  decode [.word 0x000A1E04#32] = .instr (.cmHop 30 10) [] ∧
  decode [.word 0x00022512#32, .word 0x00000010#32, .byte 0xA9#8, .byte 0xE4#8] = .instr (.whXor 37 16 [0xA9#8, 0xE4#8]) [] ∧
  decode [.word 0x00020020#32, .word 0x00AAAAAA#32, .byte 0x01#8, .byte 0x00#8] = .instr (.crcFwd 0xAAAAAA#24 [0x01#8, 0x00#8]) [] ∧
  decode [.word 0x0000C432#32] = .instr (.pbRssi 0xC4#8) [] ∧
  decode [.word 0x00000533#32, .word 0x000003E8#32, .word 0xAF9A9CD4#32] = .instr (.pbCommit 5 1000 0xAF9A9CD4#32) [] ∧
  decode [.word 0x00012542#32, .byte 0x6B#8] = .instr (.acScan 37 [0x6B#8]) [] ∧
  decode [.word 0x0000005A#32, .word 0x00989680#32] = .instr (.prSetto 0 10000000) [] ∧
  decode [.word 0x00000062#32, .word 0xCCDDEEFF#32, .word 0x0000AABB#32, .word 0xFFFFFFFF#32, .word 0x0000FFFF#32] =
    .instr (.lsFilter 0xAABBCCDDEEFF#48 0xFFFFFFFFFFFF#48) [] ∧
  decode [.word 0x00000763#32, .word 0xAF9A9CD4#32, .word 0x02123456#32, .word 0x00180005#32, .word 0x000F4240#32,
      .word 0x33445566#32, .word 0xEEFF1122#32, .word 0xAABBCCDD#32] =
    .instr (.lsConnreq 7 0xAF9A9CD4#32 0x123456#24 2 5 24 1000000 0x112233445566#48 0xAABBCCDDEEFF#48) [] ∧
  decode [.word 0x00100364#32, .word 0x00300000#32] = .instr (.lsUpdate 3 16 48 0) [] ∧
  decode [.word 0x00000067#32, .word 0x00000003#32] = .instr .rtTake [.word 0x00000003#32]

/-- An illegal request is answered `ILLEGAL` and writes nothing else. With an `OP` that R108 lists as unlisted one word is consumed;
with a known `OP` and an unused field not 0 or an operand word that breaks R102, the whole request (R108). -/
def Obligations.IllegalRequestsAnswered : Prop :=
  (∀ (s t : State) (g : Agent) (cw : Word) (rest : List Beat), s.grant = some (g, t) → (t.port g).reqs = .word cw :: rest →
    UnlistedCode (fieldOp cw).toNat → step s = .next ((t.serving g rest).answer (errorResponse .illegal))) ∧
  (∀ (s t : State) (g : Agent) (op : Op) (cw : Word) (ws : List Word) (d : List Byte) (rest : List Beat),
    s.grant = some (g, t) → (t.port g).reqs = .word cw :: (ws.map .word ++ (d.map .byte ++ rest)) →
    fieldOp cw = op.code → ws.length = op.format.words → d.length = op.format.dataLength cw →
    UnusedFieldSet op cw ∨ OperandWordBroken op ws →
    step s = .next ((t.serving g rest).answer (errorResponse .illegal))) ∧
  (∀ c : Byte, UnlistedCode c.toNat ↔ ∀ op : Op, op.code ≠ c)

/-- One step serves the request at the head of the port whose turn it is: when its words and bytes decode to `i`, the step is `exec i`
on the state in which they are taken off that port and that port's agent is the issuer (R6, R100). -/
def Obligations.StepRunsDecodedRequest : Prop :=
  (∀ (s t : State) (g : Agent) (i : Instr) (rest : List Beat), s.grant = some (g, t) →
    decode (t.port g).reqs = .instr i rest → step s = exec i (t.serving g rest)) ∧
  (∀ (t : State) (rest : List Beat),
    t.serving .cap rest = { t with agent := .cap, capPort := { t.capPort with reqs := rest } } ∧
    t.serving .proc rest = { t with agent := .proc, procPort := { t.procPort with reqs := rest } })

/-- Which port is served: the one that holds a request; when both do, the one the schedule names, and past its end the one the free
value `Config.arbiter` names, so that either may come first (R6, U5; the schedule is the model's choice, log 4). With nothing on either
port a step changes nothing (log 6). A stream that begins with no whole request is outside the block's definition (R101, U4): the
model stops (log 5). -/
def Obligations.PortsAndArbitration : Prop :=
  (∀ s : State, s.capPort.reqs = [] → s.procPort.reqs = [] → step s = .next s) ∧
  (∀ s : State, s.capPort.reqs ≠ [] → s.procPort.reqs = [] → s.grant = some (.cap, s)) ∧
  (∀ s : State, s.capPort.reqs = [] → s.procPort.reqs ≠ [] → s.grant = some (.proc, s)) ∧
  (∀ (s : State) (g : Agent) (plan : List Agent), s.capPort.reqs ≠ [] → s.procPort.reqs ≠ [] → s.arbPlan = g :: plan →
    s.grant = some (g, { s with arbPlan := plan })) ∧
  (∀ s : State, s.capPort.reqs ≠ [] → s.procPort.reqs ≠ [] → s.arbPlan = [] →
    s.grant = some (Config.arbiter s.arbSeq, { s with arbSeq := s.arbSeq + 1 })) ∧
  (∀ (s t : State) (g : Agent) (why : FrameError), s.grant = some (g, t) → decode (t.port g).reqs = .misframed why →
    step s = .fault (.misframed why))

/-! ### Invariants -/

/-- Exactly one row of the table of R25 holds at reset and after every step (R25). -/
def Obligations.TripleInvariantKept : Prop :=
  State.reset.rowsHolding = 1 ∧ ∀ s t : State, s.rowsHolding = 1 → step s = .next t → t.rowsHolding = 1

/-- The pool invariants hold at reset and after every step: at most one buffer is `CAPTURING`, `PBQ` has no repeated index and holds
exactly the `QUEUED` buffers, no `len` is above 263, a `QUEUED` buffer has the length it declares and declares no more than
`MAX_PDU_LEN`, and there are four buffers (R191). `PoolWf` adds what the proof needs of a capturing buffer and of the memory's form. -/
def Obligations.PoolInvariantKept : Prop :=
  State.reset.PoolWf ∧ (∀ s t : State, s.PoolWf → step s = .next t → t.PoolWf) ∧ ∀ s : State, s.pb.toList.length = 4

/-- At most one slot of the cache holds an address, and a valid slot counts at least 1, after every step from a state of which this is
true (the state invariant of R42). -/
def Obligations.CacheInvariantKept : Prop := ∀ s t : State, s.CacheWf → step s = .next t → t.CacheWf

/-- After every step the elements stay in the ranges of R30, R31, R38, R43 to R45, `CRC_RAW` stays the reversal of `CRC_LFSR` (R28), and
each stage has the values it reads: the address from `CrcRecovery` on, the seed after it, the interval (not 0) and a probe channel in
`HopIncrementRecovery`, the interval, the increment and a data channel in `ConnectionFollow` (R240, R246, R247, R250, R283). -/
def Obligations.ValueInvariantKept : Prop :=
  ∀ s t : State, s.rowsHolding = 1 → s.ValuesWf → step s = .next t → t.ValuesWf

/-- Every invariant holds at reset, whatever the open parameters are (R64, R341; the values of unspecified elements are log 1). -/
def Obligations.ResetMeetsInvariants : Prop :=
  Config.params.Wf ∧ State.reset.rowsHolding = 1 ∧ State.reset.PoolWf ∧ State.reset.CacheWf ∧ State.reset.ValuesWf

/-- The reset values that R64 gives, and that the first operation may be any operation: each is answered (R64). `CONN_TIMEOUT` is
`4000 * TICKS_PER_UNIT` taken modulo 2^32, the width of the element; where the product does not fit, that is the model's choice
(log 23). -/
def Obligations.ResetValues : Prop :=
  (State.reset.mode = .off ∧ State.reset.stage = .idle ∧ State.reset.lstate = .inactive) ∧
  (State.reset.aaValid = false ∧ State.reset.crcVerified = false ∧ State.reset.crcVerify = false ∧
    State.reset.intervalValid = false ∧ State.reset.hopincValid = false ∧ State.reset.updPending = false ∧
    State.reset.hpFirstValid = false ∧ State.reset.stageTsValid = false ∧ State.reset.rtPending = false ∧
    (∀ i : Fin 32, State.reset.ac[i].valid = false) ∧ State.reset.whCap.loaded = false ∧ State.reset.whProc.loaded = false) ∧
  (State.reset.chan = 37 ∧ State.reset.discChan = 37 ∧ State.reset.winSize = 0 ∧ State.reset.winOffset = 0 ∧
    State.reset.evcnt = 0 ∧ State.reset.hiSmallest.toNat = 2 ^ 32 - 1 ∧ State.reset.hiMatch = 0 ∧ State.reset.hiEst = 0 ∧
    State.reset.hpRetries = 0 ∧ State.reset.filtAddr = 0 ∧ State.reset.filtMask = 0 ∧ State.reset.discTimeout = 0 ∧
    State.reset.recovTimeout = 0 ∧ State.reset.connTimeout = BitVec.ofNat 32 (4000 * State.reset.params.ticksPerUnit)) ∧
  ((∀ b : Fin 4, State.reset.pb[b].tag = .free) ∧ State.reset.pbq = [] ∧ State.reset.discards = 0) ∧
  (∀ (g : Agent) (i : Instr), ∃ t, issued g i State.reset = .next t)

/-! ### Statuses and rights -/

/-- A request from the agent that may not issue the operation is answered `PERM` and writes nothing; a permitted one never is (R321). -/
def Obligations.WrongAgentGetsPerm : Prop :=
  (∀ (i : Instr) (s : State), ¬Permitted s.agent (opOf i) → exec i s = .next (s.answer (errorResponse .perm))) ∧
  (∀ (i : Instr) (s t : State) (r : Response), Permitted s.agent (opOf i) → exec i s = .next t → t.lastOn s.agent = some r →
    r.status ≠ .perm)

/-- An operation ends with `OK`, with `PERM`, or with a status of its row in the table of R303, and with each of its row's in some
state (R303; `ILLEGAL` is the decoder's). -/
def Obligations.StatusesOfEachOperation : Prop :=
  (∀ (i : Instr) (s t : State), exec i s = .next t →
    ∃ r, t.lastOn s.agent = some r ∧ (r.status = .ok ∨ r.status = .perm ∨ r.status ∈ statusesOf (opOf i))) ∧
  (∀ (op : Op) (st : Status), st = .ok ∨ st ∈ statusesOf op →
    ∃ (i : Instr) (s t : State) (r : Response),
      opOf i = op ∧ exec i s = .next t ∧ t.lastOn s.agent = some r ∧ r.status = st)

/-- A raise is precise: a response with a status other than `OK` carries nothing else, and the state is the one before the operation,
but that `NOBUF` leaves `DISCARDS` incremented and `MALFORMED` leaves the capturing buffer's tag `FREE` (R300). -/
def Obligations.RaiseIsPrecise : Prop :=
  ∀ (i : Instr) (s t : State) (r : Response), exec i s = .next t → t.lastOn s.agent = some r → r.status ≠ .ok →
    r = { status := r.status, ra := 0, rb := 0, words := [], data := [], events := [] } ∧
    ((r.status ≠ .noBuf ∧ r.status ≠ .malformed ∧ t = s.answer r) ∨
      (r.status = .noBuf ∧
        t = State.answer { s with discards := BitVec.ofNat 32 (min (s.discards.toNat + 1) (2 ^ 32 - 1)) } r) ∨
      (r.status = .malformed ∧
        ∃ b : Fin 4, s.CapturingAt b ∧ t = State.answer { s with pb := s.pb.set b { s.pb[b] with tag := .free } } r))

/-- Every operation ends and is answered exactly once, on the port it came from, whatever the state: one response is added to the
issuer's port, the other port's are untouched, and no request, parameter, schedule entry or issuer changes (R6, R103, R366). -/
def Obligations.EveryRequestAnsweredOnce : Prop :=
  ∀ (i : Instr) (s : State), ∃ (t : State) (r : Response), exec i s = .next t ∧
    (t.port s.agent).resps = (s.port s.agent).resps ++ [r] ∧ (t.port s.agent).reqs = (s.port s.agent).reqs ∧
    t.port (otherAgent s.agent) = s.port (otherAgent s.agent) ∧
    t.agent = s.agent ∧ t.arbPlan = s.arbPlan ∧ t.arbSeq = s.arbSeq ∧ t.params = s.params

/-- A permitted operation is answered `RANGE`, and writes nothing, exactly when an operand is outside its domain; no state of the block
comes before that check (R107, R302). -/
def Obligations.RangeExactlyOutOfDomain : Prop :=
  ∀ (i : Instr) (s : State), Permitted s.agent (opOf i) →
    (outOfDomain i → exec i s = .next (s.answer (errorResponse .range))) ∧
    (¬outOfDomain i → ∃ t r, exec i s = .next t ∧ t.lastOn s.agent = some r ∧ r.status ≠ .range)

/-- After `MALFORMED` no buffer is `CAPTURING`, `PBQ` and every `QUEUED` buffer are as before, and the next `PB_ACQ` starts a clean
buffer (R306). -/
def Obligations.MalformedDropsOnePacket : Prop :=
  ∀ (i : Instr) (s t : State) (r : Response), s.PoolWf → exec i s = .next t → t.lastOn s.agent = some r →
    r.status = .malformed →
    (∀ b : Fin 4, t.pb[b].tag ≠ .capturing) ∧ t.pbq = s.pbq ∧ (∀ b : Fin 4, s.pb[b].tag = .queued → t.pb[b] = s.pb[b]) ∧
    ∃ (u : State) (b : Fin 4), issued .cap .pbAcq t = .next u ∧ u.lastOn .cap = some { ra := BitVec.ofNat 8 b.val } ∧
      u.pb[b].tag = .capturing ∧ u.pb[b].len = 0 ∧ u.pbq = s.pbq ∧ u.discards = s.discards ∧
      ∀ a : Fin 4, s.pb[a].tag = .queued → u.pb[a] = s.pb[a]

/-! ### Channel Mapper -/

/-- `CM_I2F`, `CM_F2I`, `CM_ADV`, `CM_HOP`: the value each returns or `RANGE`, with no state written, whoever issues it (R130 to R133). -/
def Obligations.ChannelMapperResults : Prop :=
  (∀ (idx : Byte) (s : State),
    (39 < idx.toNat → exec (.cmI2f idx) s = .next (s.answer (errorResponse .range))) ∧
    (idx.toNat = 37 → exec (.cmI2f idx) s = .next (s.answer { rb := 2402 })) ∧
    (idx.toNat = 38 → exec (.cmI2f idx) s = .next (s.answer { rb := 2426 })) ∧
    (idx.toNat = 39 → exec (.cmI2f idx) s = .next (s.answer { rb := 2480 })) ∧
    (idx.toNat < 11 → exec (.cmI2f idx) s = .next (s.answer { rb := BitVec.ofNat 16 (2404 + 2 * idx.toNat) })) ∧
    (11 ≤ idx.toNat → idx.toNat ≤ 36 →
      exec (.cmI2f idx) s = .next (s.answer { rb := BitVec.ofNat 16 (2428 + 2 * (idx.toNat - 11)) }))) ∧
  (∀ (freq : Half) (s : State),
    (freq.toNat < 2402 ∨ 2480 < freq.toNat ∨ freq.toNat % 2 = 1 →
      exec (.cmF2i freq) s = .next (s.answer (errorResponse .range))) ∧
    (freq.toNat = 2402 → exec (.cmF2i freq) s = .next (s.answer { ra := 37 })) ∧
    (freq.toNat = 2426 → exec (.cmF2i freq) s = .next (s.answer { ra := 38 })) ∧
    (freq.toNat = 2480 → exec (.cmF2i freq) s = .next (s.answer { ra := 39 })) ∧
    (2402 < freq.toNat → freq.toNat < 2426 → freq.toNat % 2 = 0 →
      exec (.cmF2i freq) s = .next (s.answer { ra := BitVec.ofNat 8 ((freq.toNat - 2404) / 2) })) ∧
    (2426 < freq.toNat → freq.toNat < 2480 → freq.toNat % 2 = 0 →
      exec (.cmF2i freq) s = .next (s.answer { ra := BitVec.ofNat 8 (11 + (freq.toNat - 2428) / 2) }))) ∧
  (∀ s : State, exec .cmAdv s = .next (s.answer { words := [0x00272625#32] })) ∧
  (∀ (idx inc : Byte) (s : State),
    (36 < idx.toNat ∨ 36 < inc.toNat → exec (.cmHop idx inc) s = .next (s.answer (errorResponse .range))) ∧
    (idx.toNat ≤ 36 → inc.toNat ≤ 36 →
      exec (.cmHop idx inc) s = .next (s.answer { ra := BitVec.ofNat 8 ((idx.toNat + inc.toNat) % 37) })))

/-- The mapping is a bijection of the 40 indices and the even frequencies of the band: `CM_F2I` after `CM_I2F` gives the index back, and
`CM_I2F` after `CM_F2I` the frequency (R131, and the mapping's invariant in 40_channel_mapper.md). -/
def Obligations.ChannelMapperRoundTrip : Prop :=
  (∀ (idx : Byte) (s : State), idx.toNat ≤ 39 → ∃ f : Half,
    exec (.cmI2f idx) s = .next (s.answer { rb := f }) ∧ exec (.cmF2i f) s = .next (s.answer { ra := idx })) ∧
  (∀ (freq : Half) (s : State), 2402 ≤ freq.toNat → freq.toNat ≤ 2480 → freq.toNat % 2 = 0 → ∃ idx : Byte, idx.toNat ≤ 39 ∧
    exec (.cmF2i freq) s = .next (s.answer { ra := idx }) ∧ exec (.cmI2f idx) s = .next (s.answer { rb := freq }))

/-! ### Whitening Engine -/

/-- The table is the generator's sequence: the k-th output of the register of R141 seeded for a channel, in either of its two forms, is
`wbit(ch, k)`; the register is never all-zero, its step is a bijection that fixes zero, and it returns after 127 steps (R141). -/
def Obligations.WhiteningIsTheLfsr : Prop :=
  (∀ (ch : Byte) (k : Nat), ch.toNat ≤ 39 →
    lfsrOut (lfsrAfter ch k) = wbit ch k ∧ byteLfsrOut (byteLfsrAfter ch k) = wbit ch k ∧ lfsrAfter ch k ≠ 0 ∧
      lfsrAfter ch (k + 127) = lfsrAfter ch k) ∧
  Function.Bijective lfsrStep ∧ lfsrStep 0 = 0 ∧
  (∀ r : Lfsr, r ≠ 0 → ∃ k, k < 127 ∧ lfsrAfter 23 k = r)

/-- The first eight mask bytes of each of the 40 channels, as eight zero bytes XOR-ed from position 0 (R142). -/
def Obligations.FirstMaskBytes : Prop :=
  ∀ (s : State) (ch : Fin 40),
    exec (.whXor (BitVec.ofNat 8 ch.val) 0 (List.replicate 8 0)) s =
      .next (s.answer
        { rb := 8
          data :=
            ((([0x40B2BCC31F374A5F, 0x8940B2BCC31F374A, 0xD257A13DA766B075, 0x1BA5AF427B4ECD60, 0x6479873F6E94BE0A,
                0xAD8B8940B2BCC31F, 0xF69C9AC1D6C54420, 0x3F6E94BE0AED3935, 0x0824CB3BFC71A3F4, 0xC1D6C5442059DEE1,
                0x9AC1D6C5442059DE, 0x5333D8BA980824CB, 0x2CEFF0C78DD257A1, 0xE51DFEB851FA2AB4, 0xBE0AED393583AD8B,
                0x77F8E346E9ABD09E, 0xD09E5333D8BA9808, 0x196C5D4C0492E51D, 0x427B4ECD60EB6222, 0x8B8940B2BCC31F37,
                0xF45568CFA9196C5D, 0x3DA766B075311148, 0x66B0753111489677, 0xAF427B4ECD60EB62, 0x980824CB3BFC71A3,
                0x51FA2AB4E7D40CB6, 0x0AED393583AD8B89, 0xC31F374A5F85F69C, 0xBCC31F374A5F85F6, 0x753111489677F8E3,
                0x2E2602C9F20E7FDC, 0xE7D40CB62E2602C9, 0x60EB6222902CEFF0, 0xA9196C5D4C0492E5, 0xF20E7FDC287D15DA,
                0x3BFC71A3F45568CF, 0x442059DEE18F1BA5, 0x8DD257A13DA766B0, 0xD6C5442059DEE18F, 0x1F374A5F85F69C9A] :
                  List (BitVec 64)).getD ch.val 0) |> fun row =>
              (List.range 8).map fun k => row.extractLsb' (56 - 8 * k) 8) })

/-- `WH_XOR`: `RANGE`, or `n` bytes of which bit `j` of byte `i` is the operand's XOR the sequence bit of position `start + 8i + j`; no
state is written; applied to its own result it gives the operand back, and a split operand gives the parts (R145, R140). -/
def Obligations.WhXorResult : Prop :=
  (∀ (ch : Byte) (start : Half) (data : List Byte) (s : State), 39 < ch.toNat ∨ 263 < data.length →
    exec (.whXor ch start data) s = .next (s.answer (errorResponse .range))) ∧
  (∀ (ch : Byte) (start : Half) (data : List Byte) (s : State), ch.toNat ≤ 39 → data.length ≤ 263 → ∃ out : List Byte,
    exec (.whXor ch start data) s = .next (s.answer { rb := BitVec.ofNat 16 data.length, data := out }) ∧
    out.length = data.length ∧
    (∀ i j : Nat, i < data.length → j < 8 →
      (out.getD i 0).getLsbD j = ((data.getD i 0).getLsbD j ^^ whW (whIdx ch + (start.toNat + 8 * i + j)))) ∧
    exec (.whXor ch start out) s = .next (s.answer { rb := BitVec.ofNat 16 data.length, data := data })) ∧
  (∀ (ch : Byte) (start : Half) (d1 d2 : List Byte) (s : State), ch.toNat ≤ 39 → d1.length + d2.length ≤ 263 →
    start.toNat + 8 * d1.length < 65536 → ∃ o1 o2 : List Byte,
      exec (.whXor ch start d1) s = .next (s.answer { rb := BitVec.ofNat 16 d1.length, data := o1 }) ∧
      exec (.whXor ch (start + BitVec.ofNat 16 (8 * d1.length)) d2) s =
        .next (s.answer { rb := BitVec.ofNat 16 d2.length, data := o2 }) ∧
      exec (.whXor ch start (d1 ++ d2)) s =
        .next (s.answer { rb := BitVec.ofNat 16 (d1.length + d2.length), data := o1 ++ o2 }))

/-- The streaming operations write the issuer's own context and nothing else: `WH_LOAD` points it, `WH_STEP` draws bits (the first in bit
0), `WH_XORS` XORs bytes, each from table position `pos` on and advancing it modulo 127; `RANGE` and `NOTLOADED` as their rules say
(R45, R143, R144, R146). -/
def Obligations.WhStreamResults : Prop :=
  (∀ (s : State) (c : WhCtx),
    (s.agent = .cap → s.whc = s.whCap ∧ s.setWhc c = { s with whCap := c }) ∧
    (s.agent = .proc → s.whc = s.whProc ∧ s.setWhc c = { s with whProc := c })) ∧
  (∀ (ch : Byte) (start : Half) (s : State),
    (39 < ch.toNat → exec (.whLoad ch start) s = .next (s.answer (errorResponse .range))) ∧
    (ch.toNat ≤ 39 → exec (.whLoad ch start) s =
      .next ((s.setWhc { loaded := true, ch := ch, pos := BitVec.ofNat 7 ((whIdx ch + start.toNat) % 127) }).answer {}))) ∧
  (∀ (n : Byte) (s : State),
    (n.toNat < 1 ∨ 32 < n.toNat → exec (.whStep n) s = .next (s.answer (errorResponse .range))) ∧
    (1 ≤ n.toNat → n.toNat ≤ 32 → s.whc.loaded = false → exec (.whStep n) s = .next (s.answer (errorResponse .notLoaded))) ∧
    (1 ≤ n.toNat → n.toNat ≤ 32 → s.whc.loaded = true → ∃ w : Word,
      exec (.whStep n) s = .next
        ((s.setWhc { s.whc with pos := BitVec.ofNat 7 ((s.whc.pos.toNat + n.toNat) % 127) }).answer { words := [w] }) ∧
      ∀ k : Nat, w.getLsbD k = (decide (k < n.toNat) && whW (s.whc.pos.toNat + k)))) ∧
  (∀ (data : List Byte) (s : State),
    (263 < data.length → exec (.whXors data) s = .next (s.answer (errorResponse .range))) ∧
    (data.length ≤ 263 → s.whc.loaded = false → exec (.whXors data) s = .next (s.answer (errorResponse .notLoaded))) ∧
    (data.length ≤ 263 → s.whc.loaded = true → ∃ out : List Byte,
      exec (.whXors data) s = .next
        ((s.setWhc { s.whc with pos := BitVec.ofNat 7 ((s.whc.pos.toNat + 8 * data.length) % 127) }).answer
          { rb := BitVec.ofNat 16 data.length, data := out }) ∧
      out.length = data.length ∧
      ∀ i j : Nat, i < data.length → j < 8 →
        (out.getD i 0).getLsbD j = ((data.getD i 0).getLsbD j ^^ whW (s.whc.pos.toNat + 8 * i + j))))

/-- The two forms of the unit draw the same bits: after `WH_LOAD ch, start`, `WH_XORS d1` then `WH_XORS d2` return the bytes that
`WH_XOR ch, start` returns of `d1` followed by `d2`, whichever agent issues them (R146). -/
def Obligations.WhStreamEqualsBlock : Prop :=
  ∀ (g : Agent) (ch : Byte) (start : Half) (d1 d2 : List Byte) (s : State), ch.toNat ≤ 39 → d1.length + d2.length ≤ 263 →
    ∃ (t1 t2 t3 t4 : State) (r1 r2 r : Response),
      issued g (.whLoad ch start) s = .next t1 ∧ issued g (.whXors d1) t1 = .next t2 ∧ t2.lastOn g = some r1 ∧
      issued g (.whXors d2) t2 = .next t3 ∧ t3.lastOn g = some r2 ∧
      issued g (.whXor ch start (d1 ++ d2)) s = .next t4 ∧ t4.lastOn g = some r ∧
      r1.status = .ok ∧ r2.status = .ok ∧ r.status = .ok ∧ r.data = r1.data ++ r2.data ∧
      r1.data.length = d1.length ∧ r2.data.length = d2.length

/-- `WH_REFL` reverses the bits of each byte and keeps the byte sequence; `CRC_REV24` reverses 24 bits. Both are their own inverse and
write no state (R148, R167). -/
def Obligations.BitReversals : Prop :=
  (∀ (data : List Byte) (s : State), 263 < data.length → exec (.whRefl data) s = .next (s.answer (errorResponse .range))) ∧
  (∀ (data : List Byte) (s : State), data.length ≤ 263 → ∃ out : List Byte,
    exec (.whRefl data) s = .next (s.answer { rb := BitVec.ofNat 16 data.length, data := out }) ∧ out.length = data.length ∧
    (∀ i j : Nat, i < data.length → j < 8 → (out.getD i 0).getLsbD j = (data.getD i 0).getLsbD (7 - j)) ∧
    exec (.whRefl out) s = .next (s.answer { rb := BitVec.ofNat 16 data.length, data := data })) ∧
  (∀ (v : Crc) (s : State), ∃ w : Crc,
    exec (.crcRev24 v) s = .next (s.answer { words := [w.setWidth 32] }) ∧
    (∀ i : Nat, i < 24 → w.getLsbD i = v.getLsbD (23 - i)) ∧
    exec (.crcRev24 w) s = .next (s.answer { words := [v.setWidth 32] }))

/-! ### CRC Engine -/

/-- `CRC_FWD` steps the register over the bits of the operand, byte 0 first and bit 0 of each byte first; `CRC_REV` undoes them in
reverse order; each is the other's inverse; neither writes state. A step shifts right and XORs `0xDA6000` when the bit shifted out
differs from the data bit, and the reverse step is its inverse (R161, R162, R165, R166). -/
def Obligations.CrcForwardAndReverse : Prop :=
  (∀ (c : Crc) (b : Bool), fstep c b = (c >>> 1 ^^^ if (c.getLsbD 0 ^^ b) then 0xDA6000#24 else 0#24) ∧ rstep (fstep c b) b = c) ∧
  (∀ (x : Crc) (data : List Byte) (s : State), 263 < data.length →
    exec (.crcFwd x data) s = .next (s.answer (errorResponse .range)) ∧
    exec (.crcRev x data) s = .next (s.answer (errorResponse .range))) ∧
  (∀ (x : Crc) (data : List Byte) (s : State), data.length ≤ 263 → ∃ c r : Crc,
    c = (data.flatMap byteBits).foldl fstep x ∧ exec (.crcFwd x data) s = .next (s.answer { words := [c.setWidth 32] }) ∧
    exec (.crcRev c data) s = .next (s.answer { words := [x.setWidth 32] }) ∧
    r = (data.flatMap byteBits).reverse.foldl rstep x ∧ exec (.crcRev x data) s = .next (s.answer { words := [r.setWidth 32] }) ∧
    exec (.crcFwd r data) s = .next (s.answer { words := [x.setWidth 32] }))

/-- The lookup-table variant answers what the bit-wise `CRC_FWD` answers, for every seed and operand, and each table entry is
`CRC_FWD(i, [00])` (R163, R164). -/
def Obligations.CrcTableEqualsBitwise : Prop :=
  (∀ i : Byte, crcLut i = (byteBits 0).foldl fstep (i.setWidth 24)) ∧
  (∀ (x : Crc) (data : List Byte) (s : State),
    (263 < data.length → exec (.crcFwdt x data) s = .next (s.answer (errorResponse .range))) ∧
    (data.length ≤ 263 → exec (.crcFwdt x data) s =
      .next (s.answer { words := [((data.flatMap byteBits).foldl fstep x).setWidth 32] })))

/-- `CRC_CHK` answers the CRC of all but the last three bytes, the little-endian number those three are, and whether the two are equal,
which is exactly when the forward CRC over the whole operand is 0; under three bytes it answers `RANGE` (R162, R169). -/
def Obligations.CrcCheckResult : Prop :=
  (∀ (x : Crc) (data : List Byte) (s : State), data.length < 3 ∨ 263 < data.length →
    exec (.crcChk x data) s = .next (s.answer (errorResponse .range))) ∧
  (∀ (x : Crc) (body : List Byte) (c0 c1 c2 : Byte) (s : State), body.length + 3 ≤ 263 →
    exec (.crcChk x (body ++ [c0, c1, c2])) s = .next (s.answer
      { ra := if (body.flatMap byteBits).foldl fstep x = c2 ++ (c1 ++ c0) then 1 else 0
        words := [((body.flatMap byteBits).foldl fstep x).setWidth 32, (c2 ++ (c1 ++ c0)).setWidth 32] }) ∧
    ((body.flatMap byteBits).foldl fstep x = c2 ++ (c1 ++ c0) ↔
      ((body ++ [c0, c1, c2]).flatMap byteBits).foldl fstep x = 0) ∧
    (crcOk x (body ++ [c0, c1, c2]) = true ↔ (body.flatMap byteBits).foldl fstep x = c2 ++ (c1 ++ c0)))

/-! ### Packet Buffer Pool -/

/-- `PB_ACQ` hands out the lowest `FREE` buffer with `len` and the RSSI accumulators at their start values, or answers `BADSTATE`, or
`NOBUF` with one more discard; `PB_RSSI` folds a signed sample into the capturing buffer's minimum, maximum and saturating sum, or
answers `BADTAG` (R182, R184). -/
def Obligations.PbAcqAndRssiResult : Prop :=
  (∀ (s : State) (b : Fin 4), s.agent = .cap → s.pb[b].tag = .capturing →
    exec .pbAcq s = .next (s.answer (errorResponse .badState))) ∧
  (∀ s : State, s.agent = .cap → s.NoneCapturing → (∀ b : Fin 4, s.pb[b].tag ≠ .free) →
    exec .pbAcq s = .next (State.answer
      { s with discards := BitVec.ofNat 32 (min (s.discards.toNat + 1) (2 ^ 32 - 1)) } (errorResponse .noBuf))) ∧
  (∀ (s : State) (b : Fin 4), s.agent = .cap → s.NoneCapturing → s.pb[b].tag = .free →
    (∀ a : Fin 4, a < b → s.pb[a].tag ≠ .free) →
    exec .pbAcq s = .next (State.answer
      { s with
        pb := s.pb.set b
          { s.pb[b] with tag := .capturing, len := 0, rssiMin := 127, rssiMax := BitVec.ofInt 8 (-128), rssiSum := 0 } }
      { ra := BitVec.ofNat 8 b.val })) ∧
  (∀ (x : Byte) (s : State), s.agent = .cap → s.NoneCapturing →
    exec (.pbRssi x) s = .next (s.answer (errorResponse .badTag))) ∧
  (∀ (x : Byte) (s : State) (b : Fin 4), s.agent = .cap → s.CapturingAt b →
    exec (.pbRssi x) s = .next (State.answer
      { s with
        pb := s.pb.set b
          { s.pb[b] with
            rssiMin := BitVec.ofInt 8 (min s.pb[b].rssiMin.toInt x.toInt)
            rssiMax := BitVec.ofInt 8 (max s.pb[b].rssiMax.toInt x.toInt)
            rssiSum := BitVec.ofInt 32 (max (-2 ^ 31) (min (s.pb[b].rssiSum.toInt + x.toInt) (2 ^ 31 - 1))) } } {}))

/-- `PB_WRITE` appends its bytes at `len`, or answers `RANGE` or `BADTAG`, or frees the buffer and answers `MALFORMED` when the buffer
would overflow or byte 1, once there, declares more than `MAX_PDU_LEN`. Every other byte of the buffer reads as before, and no other
buffer changes (R75, R183). -/
def Obligations.PbWriteResult : Prop :=
  (∀ (data : List Byte) (s : State), s.agent = .cap → 263 < data.length →
    exec (.pbWrite data) s = .next (s.answer (errorResponse .range))) ∧
  (∀ (data : List Byte) (s : State), s.agent = .cap → data.length ≤ 263 → s.NoneCapturing →
    exec (.pbWrite data) s = .next (s.answer (errorResponse .badTag))) ∧
  (∀ (data : List Byte) (s : State) (b : Fin 4), s.agent = .cap → data.length ≤ 263 → s.CapturingAt b →
    (263 < s.pb[b].len.toNat + data.length ∨
      (2 ≤ s.pb[b].len.toNat + data.length ∧
        s.params.maxPduLen < ((s.pb[b].bytes ++ data).getD 1 0 &&& s.params.lenMask).toNat)) →
    exec (.pbWrite data) s = .next (State.answer
      { s with pb := s.pb.set b { s.pb[b] with tag := .free } } (errorResponse .malformed))) ∧
  (∀ (data : List Byte) (s : State) (b : Fin 4), s.agent = .cap → s.pb[b].data.wf = true → s.CapturingAt b →
    s.pb[b].len.toNat + data.length ≤ 263 →
    (2 ≤ s.pb[b].len.toNat + data.length →
      ((s.pb[b].bytes ++ data).getD 1 0 &&& s.params.lenMask).toNat ≤ s.params.maxPduLen) →
    ∃ m : Memory,
      exec (.pbWrite data) s = .next (State.answer
        { s with
          pb := s.pb.set b { s.pb[b] with data := m, len := BitVec.ofNat 16 (s.pb[b].len.toNat + data.length) } }
        { rb := BitVec.ofNat 16 (s.pb[b].len.toNat + data.length) }) ∧
      m.wf = true ∧
      ∀ a : Nat, m.read a =
        if s.pb[b].len.toNat ≤ a ∧ a < s.pb[b].len.toNat + data.length then data.getD (a - s.pb[b].len.toNat) 0
        else s.pb[b].data.read a)

/-- `PB_COMMIT` queues the capturing buffer with its metadata when its length is the declared one, frees it with `MALFORMED` when not,
or answers `RANGE` or `BADTAG`; `PB_ABORT` frees it or answers `BADTAG`. No byte of any buffer changes (R185, R186). -/
def Obligations.PbCommitAndAbortResult : Prop :=
  (∀ (chan : Byte) (ts : Ts) (aa : Word) (s : State), s.agent = .cap → 39 < chan.toNat →
    exec (.pbCommit chan ts aa) s = .next (s.answer (errorResponse .range))) ∧
  (∀ (chan : Byte) (ts : Ts) (aa : Word) (s : State), s.agent = .cap → chan.toNat ≤ 39 → s.NoneCapturing →
    exec (.pbCommit chan ts aa) s = .next (s.answer (errorResponse .badTag))) ∧
  (∀ (chan : Byte) (ts : Ts) (aa : Word) (s : State) (b : Fin 4), s.agent = .cap → chan.toNat ≤ 39 → s.CapturingAt b →
    (s.pb[b].len.toNat < 5 ∨ s.pb[b].len.toNat ≠ 2 + (s.pb[b].data.read 1 &&& s.params.lenMask).toNat + 3 →
      exec (.pbCommit chan ts aa) s = .next (State.answer
        { s with pb := s.pb.set b { s.pb[b] with tag := .free } } (errorResponse .malformed))) ∧
    (5 ≤ s.pb[b].len.toNat → s.pb[b].len.toNat = 2 + (s.pb[b].data.read 1 &&& s.params.lenMask).toNat + 3 →
      exec (.pbCommit chan ts aa) s = .next (State.answer
        { s with
          pb := s.pb.set b { s.pb[b] with chan := chan, ts := ts, aa := aa, tag := .queued }
          pbq := s.pbq ++ [b] }
        { ra := BitVec.ofNat 8 b.val }))) ∧
  (∀ s : State, s.agent = .cap → s.NoneCapturing → exec .pbAbort s = .next (s.answer (errorResponse .badTag))) ∧
  (∀ (s : State) (b : Fin 4), s.agent = .cap → s.CapturingAt b →
    exec .pbAbort s = .next (State.answer { s with pb := s.pb.set b { s.pb[b] with tag := .free } } {}))

/-- `PB_POLL` answers the oldest queued buffer or `EMPTY`, `PB_READ` a queued buffer's metadata and its `len` bytes, `PB_STAT` the four
tags, the queue's length and the discards; none writes state. `PB_REL` frees a queued buffer and takes it out of the queue, the order of
the others kept. An index above 3 is `RANGE`, a buffer not queued `BADTAG` (R187 to R190). -/
def Obligations.PbReadersAndRelResult : Prop :=
  (∀ s : State, s.agent = .proc → s.pbq = [] → exec .pbPoll s = .next (s.answer (errorResponse .empty))) ∧
  (∀ (s : State) (b : Fin 4) (q : List (Fin 4)), s.agent = .proc → s.pbq = b :: q →
    exec .pbPoll s = .next (s.answer { ra := BitVec.ofNat 8 b.val })) ∧
  (∀ (buf : Byte) (s : State), 3 < buf.toNat →
    (s.agent = .proc → exec (.pbRead buf) s = .next (s.answer (errorResponse .range))) ∧
    exec (.pbRel buf) s = .next (s.answer (errorResponse .range))) ∧
  (∀ (buf : Byte) (s : State) (b : Fin 4), buf.toNat = b.val → s.pb[b].tag ≠ .queued →
    (s.agent = .proc → exec (.pbRead buf) s = .next (s.answer (errorResponse .badTag))) ∧
    exec (.pbRel buf) s = .next (s.answer (errorResponse .badTag))) ∧
  (∀ (buf : Byte) (s : State) (b : Fin 4), buf.toNat = b.val → s.pb[b].tag = .queued → s.agent = .proc →
    ∃ d : List Byte,
      exec (.pbRead buf) s = .next (s.answer
        { rb := s.pb[b].len
          words := [s.pb[b].ts, s.pb[b].aa, 0#8 ++ (s.pb[b].rssiMax ++ (s.pb[b].rssiMin ++ s.pb[b].chan)), s.pb[b].rssiSum]
          data := d }) ∧
      d.length = s.pb[b].len.toNat ∧ ∀ k : Nat, k < s.pb[b].len.toNat → d.getD k 0 = s.pb[b].data.read k) ∧
  (∀ (buf : Byte) (s : State) (b : Fin 4), buf.toNat = b.val → s.pb[b].tag = .queued →
    exec (.pbRel buf) s = .next (State.answer
      { s with pb := s.pb.set b { s.pb[b] with tag := .free }, pbq := s.pbq.filter fun x => x ≠ b } {})) ∧
  (∀ s : State, exec .pbStat s = .next (s.answer
    { ra := BitVec.ofNat 2 s.pb[3].tag.code ++
        (BitVec.ofNat 2 s.pb[2].tag.code ++ (BitVec.ofNat 2 s.pb[1].tag.code ++ BitVec.ofNat 2 s.pb[0].tag.code))
      rb := BitVec.ofNat 16 s.pbq.length
      words := [s.discards] }))

/-- What the capture side writes the processing side reads: after `PB_ACQ`, two `PB_WRITE`s whose bytes together are a whole packet, and
`PB_COMMIT`, the buffer stands last in the queue and `PB_READ` returns the bytes, the length, the time, the address and the channel;
every buffer queued before is unchanged (R182, R183, R185, R188). -/
def Obligations.CaptureReadsBack : Prop :=
  ∀ (s : State) (d1 d2 : List Byte) (chan : Byte) (ts : Ts) (aa : Word),
    s.PoolWf → s.NoneCapturing → (∃ a : Fin 4, s.pb[a].tag = .free) → chan.toNat ≤ 39 →
    5 ≤ (d1 ++ d2).length → (d1 ++ d2).length ≤ 263 →
    (d1 ++ d2).length = 2 + ((d1 ++ d2).getD 1 0 &&& s.params.lenMask).toNat + 3 →
    ((d1 ++ d2).getD 1 0 &&& s.params.lenMask).toNat ≤ s.params.maxPduLen →
    ∃ (b : Fin 4) (t1 t2 t3 t4 t5 : State) (r : Response),
      issued .cap .pbAcq s = .next t1 ∧ t1.lastOn .cap = some { ra := BitVec.ofNat 8 b.val } ∧
      issued .cap (.pbWrite d1) t1 = .next t2 ∧ issued .cap (.pbWrite d2) t2 = .next t3 ∧
      issued .cap (.pbCommit chan ts aa) t3 = .next t4 ∧ t4.pbq = s.pbq ++ [b] ∧
      (∀ a : Fin 4, s.pb[a].tag = .queued → t4.pb[a] = s.pb[a]) ∧
      issued .proc (.pbRead (BitVec.ofNat 8 b.val)) t4 = .next t5 ∧ t5.lastOn .proc = some r ∧
      r.status = .ok ∧ r.data = d1 ++ d2 ∧ r.rb.toNat = (d1 ++ d2).length ∧ r.words.getD 0 0 = ts ∧ r.words.getD 1 0 = aa ∧
      (r.words.getD 2 0).extractLsb' 0 8 = chan

/-- A buffer's tag changes only along the arrows of R180, each by its operation, and a capturing buffer that becomes free without
`PB_ABORT` does so with `MALFORMED` (R180). -/
def Obligations.BufferLifeArrows : Prop :=
  ∀ (i : Instr) (s t : State) (b : Fin 4), exec i s = .next t → s.pb[b].tag ≠ t.pb[b].tag →
    opOf i ∈ tagMoves s.pb[b].tag t.pb[b].tag ∧
    (s.pb[b].tag = .capturing → t.pb[b].tag = .free → opOf i ≠ .pbAbort →
      ∃ r, t.lastOn s.agent = some r ∧ r.status = .malformed)

/-! ### Access-Address Discovery -/

/-- `AC_SEE`: one more for the slot that holds the address (saturating), else a new entry of count 1 in the lowest vacant slot, else in
the lowest slot of least count; when the count exceeds 3 the address is promoted: tracked, with `STAGE` `CrcRecovery`; outside
`Discovery` `BADSTATE` (R210, R212, R214). -/
def Obligations.AcSeeResult : Prop :=
  (∀ (aa : Word) (s : State), s.agent = .proc → s.stage ≠ .discovery →
    exec (.acSee aa) s = .next (s.answer (errorResponse .badState))) ∧
  (∀ (aa : Word) (s : State) (j : Fin 32) (n : Word), s.agent = .proc → s.stage = .discovery →
    s.ac[j].valid = true → s.ac[j].aa = aa → (∀ i : Fin 32, i < j → ¬(s.ac[i].valid = true ∧ s.ac[i].aa = aa)) →
    n = BitVec.ofNat 32 (min (s.ac[j].count.toNat + 1) (2 ^ 32 - 1)) →
    (n.toNat ≤ 3 → exec (.acSee aa) s = .next (State.answer
      { s with ac := s.ac.set j { s.ac[j] with count := n } } { ra := BitVec.ofNat 8 j.val, rb := 0, words := [n, 0] })) ∧
    (3 < n.toNat → exec (.acSee aa) s = .next (State.answer
      { s with
        ac := s.ac.set j { s.ac[j] with count := n }, aa := aa, aaValid := true, stage := .crcRecovery, stageTsValid := false }
      { ra := BitVec.ofNat 8 j.val, rb := 1, words := [n, 0],
        events := [.aa aa .promoted, .stage s.mode .crcRecovery s.lstate] }))) ∧
  (∀ (aa : Word) (s : State) (j : Fin 32), s.agent = .proc → s.stage = .discovery →
    (∀ i : Fin 32, ¬(s.ac[i].valid = true ∧ s.ac[i].aa = aa)) → s.ac[j].valid = false →
    (∀ i : Fin 32, i < j → s.ac[i].valid = true) →
    exec (.acSee aa) s = .next (State.answer
      { s with ac := s.ac.set j { valid := true, aa := aa, count := 1 } }
      { ra := BitVec.ofNat 8 j.val, rb := 4, words := [1, 0] })) ∧
  (∀ (aa : Word) (s : State) (j : Fin 32), s.agent = .proc → s.stage = .discovery →
    (∀ i : Fin 32, s.ac[i].valid = true ∧ s.ac[i].aa ≠ aa) →
    (∀ i : Fin 32, s.ac[j].count.toNat ≤ s.ac[i].count.toNat) →
    (∀ i : Fin 32, i < j → s.ac[j].count.toNat < s.ac[i].count.toNat) →
    exec (.acSee aa) s = .next (State.answer
      { s with ac := s.ac.set j { valid := true, aa := aa, count := 1 } }
      { ra := BitVec.ofNat 8 j.val, rb := 6, words := [1, s.ac[j].aa] }))

/-- An address not in the cache is promoted by its fourth sighting and not before (R210, R212, R214). -/
def Obligations.FourthSightingPromotes : Prop :=
  ∀ (aa : Word) (s : State), s.stage = .discovery → (∀ i : Fin 32, ¬(s.ac[i].valid = true ∧ s.ac[i].aa = aa)) →
    (∀ n : Nat, n ≤ 3 → ∃ t, repeated .proc (.acSee aa) n s = .next t ∧ t.stage = .discovery ∧ t.aaValid = s.aaValid) ∧
    ∃ (t : State) (r : Response), repeated .proc (.acSee aa) 4 s = .next t ∧ t.stage = .crcRecovery ∧ t.aa = aa ∧
      t.aaValid = true ∧ t.lastOn .proc = some r ∧ r.words.getD 0 0 = 4 ∧
      r.events = [.aa aa .promoted, .stage s.mode .crcRecovery s.lstate]

/-- `AC_SCAN` does what the loop of R216 does position by position on the air bits of its operand: it finds the matches, cuts out and
dewhitens their bytes, records each candidate and stops at a promotion; or it answers `RANGE` or `BADSTATE` (R215, R216). -/
def Obligations.AcScanRefinesTheLoop : Prop :=
  (∀ (ch : Byte) (data : List Byte) (s : State), s.agent = .proc → 39 < ch.toNat ∨ 263 < data.length →
    exec (.acScan ch data) s = .next (s.answer (errorResponse .range))) ∧
  (∀ (ch : Byte) (data : List Byte) (s : State), s.agent = .proc → ch.toNat ≤ 39 → data.length ≤ 263 → s.stage ≠ .discovery →
    exec (.acScan ch data) s = .next (s.answer (errorResponse .badState))) ∧
  (∀ (ch : Byte) (data : List Byte) (s : State), s.agent = .proc → ch.toNat ≤ 39 → data.length ≤ 263 → s.stage = .discovery →
    exec (.acScan ch data) s = .next ((scanByIndex s ch data).state.answer
      { rb := if (scanByIndex s ch data).promoted then 1 else 0
        words := [BitVec.ofNat 32 (scanByIndex s ch data).found, (scanByIndex s ch data).last]
        events := (scanByIndex s ch data).events }))

/-- `AC_CLEAR` clears the 32 valid bits; `AC_GET` answers a slot's address and count, or zeros for a slot that is not valid, or `RANGE`
above 31, and writes no state (R211, R218). -/
def Obligations.AcClearAndGetResult : Prop :=
  (∀ s : State, s.agent = .proc → ∃ t, exec .acClear s = .next (State.answer { s with ac := t } {}) ∧
    ∀ i : Fin 32, t[i].valid = false ∧ t[i].aa = s.ac[i].aa ∧ t[i].count = s.ac[i].count) ∧
  (∀ (slot : Byte) (s : State), s.agent = .proc → 31 < slot.toNat →
    exec (.acGet slot) s = .next (s.answer (errorResponse .range))) ∧
  (∀ (slot : Byte) (s : State) (i : Fin 32), s.agent = .proc → slot.toNat = i.val →
    (s.ac[i].valid = false → exec (.acGet slot) s = .next (s.answer { ra := 0, words := [0, 0] })) ∧
    (s.ac[i].valid = true → exec (.acGet slot) s = .next (s.answer { ra := 1, words := [s.ac[i].aa, s.ac[i].count] })))

/-! ### Parameter Recovery -/

/-- `PR_START` clears what re-seed clears, enters `PROMISC` in `Discovery` and posts the channel; `PR_STOP` clears the same and enters
`OFF`, leaving the channel; out of domain `RANGE`, in another mode `BADSTATE` (R231, R232). -/
def Obligations.PrStartAndStopResult : Prop :=
  (∀ (ch : Byte) (s : State), s.agent = .proc →
    (39 < ch.toNat → exec (.prStart ch) s = .next (s.answer (errorResponse .range))) ∧
    (ch.toNat ≤ 39 → s.mode ≠ .off → exec (.prStart ch) s = .next (s.answer (errorResponse .badState))) ∧
    (ch.toNat ≤ 39 → s.mode = .off → exec (.prStart ch) s = .next (State.answer
      { s.forget with
        mode := .promisc, lstate := .listening, stage := .discovery, discChan := ch, chan := ch, rtChan := ch, rtPending := true }
      { events := [.stage .promisc .discovery .listening] }))) ∧
  (∀ s : State, s.agent = .proc →
    (s.mode ≠ .promisc → exec .prStop s = .next (s.answer (errorResponse .badState))) ∧
    (s.mode = .promisc → exec .prStop s = .next (State.answer
      { s.forget with mode := .off, lstate := .inactive, stage := .idle } { events := [.stage .off .idle .inactive] })))

/-- What re-seed clears, element by element; `PR_RESEED` clears it, goes to `Discovery` on the discovery channel and posts a retune
only on a change; `PR_SETAA` clears it and tracks the address given; `BADSTATE` outside `PROMISC` mode (R233 to R236). -/
def Obligations.ReseedAndSetaaResult : Prop :=
  (∀ s : State, s.forget =
    { s with
      ac := s.ac.map fun e => { e with valid := false }
      aaValid := false, crcVerified := false, crcVerify := false, intervalValid := false, hopincValid := false
      updPending := false, evcnt := 0, winSize := 0, winOffset := 0
      hiSmallest := BitVec.ofNat 32 (2 ^ 32 - 1), hiMatch := 0, hiEst := 0
      hpFirstValid := false, hpRetries := 0, stageTsValid := false }) ∧
  (∀ s : State, s.reseeded =
    { s.forget with
      stage := .discovery, lstate := .listening, chan := s.discChan
      rtChan := if s.chan = s.discChan then s.rtChan else s.discChan
      rtPending := if s.chan = s.discChan then s.rtPending else true }) ∧
  (∀ s : State, s.agent = .proc →
    (s.mode ≠ .promisc → exec .prReseed s = .next (s.answer (errorResponse .badState))) ∧
    (s.mode = .promisc → exec .prReseed s = .next (s.reseeded.answer
      { events := [.reseed .command, .stage .promisc .discovery .listening] }))) ∧
  (∀ (aa : Word) (s : State), s.agent = .proc →
    (s.mode ≠ .promisc → exec (.prSetaa aa) s = .next (s.answer (errorResponse .badState))) ∧
    (s.mode = .promisc → exec (.prSetaa aa) s = .next (State.answer
      { s.forget with
        lstate := .listening, aa := aa, aaValid := true, stage := .crcRecovery, chan := s.discChan
        rtChan := if s.chan = s.discChan then s.rtChan else s.discChan
        rtPending := if s.chan = s.discChan then s.rtPending else true }
      { events := [.aa aa .operator, .stage .promisc .crcRecovery .listening] })))

/-- What turns a packet away writes nothing: no such buffer, a buffer not queued, a stage without handler, another address, a bad CRC
with verification on, no signature in `CrcRecovery`; and in `ConnectionFollow` an accepted packet refreshes `LAST_PKT_TS`, the first one
after a connection request entering `CONNECTED` (R237, R239, R277). -/
def Obligations.PacketGatesAndFollow : Prop :=
  (∀ (buf : Byte) (s : State), s.agent = .proc → 3 < buf.toNat →
    exec (.prPkt buf) s = .next (s.answer (errorResponse .range))) ∧
  (∀ (buf : Byte) (s : State) (b : Fin 4), s.agent = .proc → buf.toNat = b.val →
    (s.pb[b].tag ≠ .queued → exec (.prPkt buf) s = .next (s.answer (errorResponse .badTag))) ∧
    (s.pb[b].tag = .queued → s.stage = .idle → exec (.prPkt buf) s = .next (s.answer { ra := 1, rb := 0 })) ∧
    (s.pb[b].tag = .queued → s.stage = .discovery → exec (.prPkt buf) s = .next (s.answer { ra := 1, rb := 1 })) ∧
    (s.pb[b].tag = .queued → s.stage ≠ .idle → s.stage ≠ .discovery → s.aaValid = false ∨ s.pb[b].aa ≠ s.aa →
      exec (.prPkt buf) s = .next (s.answer { ra := 2, rb := BitVec.ofNat 16 s.stage.code })) ∧
    (s.pb[b].tag = .queued → s.stage = .crcRecovery → s.aaValid = true → s.pb[b].aa = s.aa →
      (∀ c0 c1 c2 : Byte, s.pb[b].bytes ≠ [0x01#8, 0x00#8, c0, c1, c2]) →
      exec (.prPkt buf) s = .next (s.answer { ra := 4, rb := 2 })) ∧
    (s.pb[b].tag = .queued → s.stage.SeedKnown → s.aaValid = true → s.pb[b].aa = s.aa → s.crcVerify = true →
      crcOk s.crcLfsr s.pb[b].bytes = false →
      exec (.prPkt buf) s = .next (s.answer { ra := 3, rb := BitVec.ofNat 16 s.stage.code })) ∧
    (s.stage = .connectionFollow → s.aaValid = true → s.pb[b].passesGates s → s.lstate = .connPending →
      exec (.prPkt buf) s = .next (State.answer
        { s with lastPktTs := s.pb[b].ts, lstate := .connected, evcnt := 0, epochTs := s.pb[b].ts }
        { ra := 0, rb := 5,
          events := [.packet b (crcOk s.crcLfsr s.pb[b].bytes) true s.aa s.pb[b].ts,
            .stage s.mode .connectionFollow .connected] })) ∧
    (s.stage = .connectionFollow → s.aaValid = true → s.pb[b].passesGates s → s.lstate ≠ .connPending →
      exec (.prPkt buf) s = .next (State.answer { s with lastPktTs := s.pb[b].ts }
        { ra := 0, rb := 5, events := [.packet b (crcOk s.crcLfsr s.pb[b].bytes) true s.aa s.pb[b].ts] })))

/-- In `CrcRecovery` an empty PDU `01 00 c0 c1 c2` on the tracked address gives the seed: the one register value from which the forward
CRC over `01 00` is the CRC the packet carries; the seed and its reversal are stored, verification is switched as `VERIFY_ON_SEED` says
and the hop-interval stage entered (R240, R241). -/
def Obligations.SeedRecovered : Prop :=
  ∀ (buf : Byte) (s : State) (b : Fin 4) (c0 c1 c2 : Byte), s.agent = .proc → buf.toNat = b.val → s.pb[b].tag = .queued →
    s.stage = .crcRecovery → s.aaValid = true → s.pb[b].aa = s.aa → s.pb[b].bytes = [0x01#8, 0x00#8, c0, c1, c2] →
    ∃ seed raw : Crc,
      exec (.prPkt buf) s = .next (State.answer
        { s with
          crcLfsr := seed, crcRaw := raw, crcVerified := true, crcVerify := s.params.verifyOnSeed
          hiSmallest := BitVec.ofNat 32 (2 ^ 32 - 1), hiMatch := 0, hiEst := 0, hiPrevTs := s.pb[b].ts
          stage := .hopIntervalRecovery, stageTsValid := false }
        { ra := 0, rb := 3,
          events := [.packet b true false s.aa s.pb[b].ts, .crc raw seed, .stage s.mode .hopIntervalRecovery s.lstate] }) ∧
      (∀ x : Crc, (byteBits 0x01#8 ++ byteBits 0x00#8).foldl fstep x = c2 ++ (c1 ++ c0) ↔ x = seed) ∧
      ∀ i : Nat, i < 24 → raw.getLsbD i = seed.getLsbD (23 - i)

/-- An accepted packet in `HopIntervalRecovery`: a gap under `MIN_GAP` writes nothing; else it becomes the gap start, the smallest gap
and the estimate follow, an estimate that matches (and is not 0) counts, the fifth match freezes the interval and enters the
hop-increment stage on `PROBE_A`, and a differing one replaces the estimate (R242, R246, R247). -/
def Obligations.IntervalStep : Prop :=
  ∀ (buf : Byte) (s : State) (b : Fin 4) (gap sm : Ts) (est : Nat) (pk : Event), s.agent = .proc → buf.toNat = b.val →
    s.stage = .hopIntervalRecovery → s.aaValid = true → s.pb[b].passesGates s →
    gap = s.pb[b].ts - s.hiPrevTs → sm = (if gap < s.hiSmallest then gap else s.hiSmallest) →
    est = min (rdiv sm.toNat (37 * s.params.ticksPerUnit)) 65535 →
    pk = .packet b (crcOk s.crcLfsr s.pb[b].bytes) true s.aa s.pb[b].ts →
    (gap.toNat < s.params.minGap →
      exec (.prPkt buf) s = .next (s.answer { ra := 5, rb := 3, events := [pk] })) ∧
    (s.params.minGap ≤ gap.toNat → est = 0 ∨ est ≠ s.hiEst.toNat →
      exec (.prPkt buf) s = .next (State.answer
        { s with hiPrevTs := s.pb[b].ts, hiSmallest := sm, hiEst := BitVec.ofNat 16 est, hiMatch := 0 }
        { ra := 0, rb := 3, events := [pk] })) ∧
    (s.params.minGap ≤ gap.toNat → est ≠ 0 → est = s.hiEst.toNat → s.hiMatch ≠ 4 →
      exec (.prPkt buf) s = .next (State.answer
        { s with hiPrevTs := s.pb[b].ts, hiSmallest := sm, hiMatch := s.hiMatch + 1 } { ra := 0, rb := 3, events := [pk] })) ∧
    (s.params.minGap ≤ gap.toNat → est ≠ 0 → est = s.hiEst.toNat → s.hiMatch = 4 →
      exec (.prPkt buf) s = .next (State.answer
        { s with
          hiPrevTs := s.pb[b].ts, hiSmallest := sm, hiMatch := 5, interval := s.hiEst, intervalValid := true
          hpFirstValid := false, hpRetries := 0, stage := .hopIncrementRecovery, stageTsValid := false
          chan := s.params.probeA, rtChan := s.params.probeA, rtPending := true }
        { ra := 0, rb := 4,
          events := [pk, .interval s.hiEst, .stage s.mode .hopIncrementRecovery s.lstate] }))

/-- Six packets whose smallest gap so far gives the same new estimate each time freeze the interval at it, the sixth and none before: one
sets the estimate and five match it (R242, R245, R246). -/
def Obligations.IntervalConverges : Prop :=
  ∀ (s : State) (ps : List Buffer) (est : Nat), s.stage = .hopIntervalRecovery → s.aaValid = true → ps.length = 6 →
    (∀ p ∈ ps, p.passesGates s) → est ≠ 0 → est ≠ s.hiEst.toNat → agreeing s.params est s.hiPrevTs s.hiSmallest ps →
    (∀ k : Nat, 1 ≤ k → k ≤ 5 → ∃ t, arrivals s (ps.take k) = .next t ∧ t.stage = .hopIntervalRecovery ∧
      t.hiMatch.toNat = k - 1 ∧ t.hiEst.toNat = est ∧ t.intervalValid = s.intervalValid ∧ t.chan = s.chan) ∧
    ∃ t, arrivals s ps = .next t ∧ t.stage = .hopIncrementRecovery ∧ t.interval.toNat = est ∧ t.intervalValid = true ∧
      t.chan = s.params.probeA ∧ t.rtChan = s.params.probeA ∧ t.rtPending = true

/-- An accepted packet in `HopIncrementRecovery`: on `PROBE_A` it starts a measurement and the block moves to `PROBE_B`; on `PROBE_B`
after that, the hops elapsed modulo 37 give the increment through the inverse modulo 37 and the connection is entered, or, when they are
0, one more retry is counted, and past `PROBE_RETRY_MAX` the block re-seeds; any other packet starts the stage over (R248, R250, R251).
Two clauses are the model's reading: a conclusive pair clears `HP_FIRST_VALID` (log 20: the table of R47 says so, the pseudocode of R250
does not write the flag), and the retry count at 255 goes on at 0 (log 19). -/
def Obligations.IncrementStep : Prop :=
  ∀ (buf : Byte) (s : State) (b : Fin 4) (k d : Nat) (pk : Event), s.agent = .proc → buf.toNat = b.val →
    s.stage = .hopIncrementRecovery → s.aaValid = true → s.pb[b].passesGates s →
    k = rdiv (s.pb[b].ts - s.hpFirstTs).toNat (s.interval.toNat * s.params.ticksPerUnit) % 37 →
    (d : Int) = ((s.params.probeB.toNat : Int) - s.params.probeA.toNat) % 37 →
    pk = .packet b (crcOk s.crcLfsr s.pb[b].bytes) true s.aa s.pb[b].ts →
    (s.pb[b].chan = s.params.probeA →
      exec (.prPkt buf) s = .next (State.answer
        { s with
          hpFirstTs := s.pb[b].ts, hpFirstValid := true
          chan := s.params.probeB, rtChan := s.params.probeB, rtPending := true }
        { ra := 0, rb := 4, events := [pk] })) ∧
    (s.pb[b].chan ≠ s.params.probeA → s.pb[b].chan = s.params.probeB → s.hpFirstValid = true → k ≠ 0 →
      ∃ (inv : Nat) (inc : Byte), 1 ≤ inv ∧ inv ≤ 36 ∧ k * inv % 37 = 1 ∧ inc.toNat = inv * d % 37 ∧
      exec (.prPkt buf) s = .next (State.answer
        { s with
          hopinc := inc, hopincValid := true, stage := .connectionFollow, stageTsValid := false, lstate := .connected
          evcnt := 0, epochTs := s.pb[b].ts, lastPktTs := s.pb[b].ts, hpFirstValid := false }
        { ra := 0, rb := 5, events := [pk, .hopinc inc, .stage s.mode .connectionFollow .connected] })) ∧
    (s.pb[b].chan ≠ s.params.probeA → s.pb[b].chan = s.params.probeB → s.hpFirstValid = true → k = 0 →
      s.params.probeRetryMax < (s.hpRetries + 1).toNat →
      exec (.prPkt buf) s = .next (s.reseeded.answer
        { ra := 7, rb := 1, events := [pk, .reseed .probesExhausted, .stage s.mode .discovery .listening] })) ∧
    (s.pb[b].chan ≠ s.params.probeA → s.pb[b].chan = s.params.probeB → s.hpFirstValid = true → k = 0 →
      (s.hpRetries + 1).toNat ≤ s.params.probeRetryMax →
      exec (.prPkt buf) s = .next (State.answer
        { s with
          hpRetries := s.hpRetries + 1, hpFirstValid := false
          chan := s.params.probeA, rtChan := s.params.probeA, rtPending := true }
        { ra := 7, rb := 4, events := [pk, .probe (s.hpRetries + 1)] })) ∧
    (s.pb[b].chan ≠ s.params.probeA → s.pb[b].chan ≠ s.params.probeB ∨ s.hpFirstValid = false →
      exec (.prPkt buf) s = .next (State.answer
        { s with
          hpFirstValid := false, chan := s.params.probeA
          rtChan := if s.chan = s.params.probeA then s.rtChan else s.params.probeA
          rtPending := if s.chan = s.params.probeA then s.rtPending else true }
        { ra := 6, rb := 4, events := [pk] }))

/-- The increment recovered is the true one: when a packet on `PROBE_A` and one on `PROBE_B` lie `h` connection events apart, their
distance in time within half an interval of `h` intervals, and `h` hops of `inc` lead from the one channel to the other, the stage
machine takes `inc` and enters the connection (R248, R249). -/
def Obligations.IncrementRecovered : Prop :=
  ∀ (s : State) (pA pB : Buffer) (h inc N : Nat), s.params.Wf → s.stage = .hopIncrementRecovery → s.aaValid = true →
    pA.passesGates s → pB.passesGates s → pA.chan = s.params.probeA → pB.chan = s.params.probeB →
    s.interval ≠ 0 → N = s.interval.toNat * s.params.ticksPerUnit →
    h * N ≤ (pB.ts - pA.ts).toNat + N / 2 → (pB.ts - pA.ts).toNat + N / 2 < (h + 1) * N →
    1 ≤ inc → inc ≤ 36 → (s.params.probeA.toNat + h * inc) % 37 = s.params.probeB.toNat →
    ∃ t, arrivals s [pA, pB] = .next t ∧ t.hopinc.toNat = inc ∧ t.hopincValid = true ∧ t.stage = .connectionFollow ∧
      t.lstate = .connected ∧ t.evcnt = 0 ∧ t.epochTs = pB.ts ∧ t.lastPktTs = pB.ts ∧ t.chan = s.params.probeB

/-- `PR_GET`, `PR_GETAA` and `PR_GETCV` report the state, a value whose flag is 0 as 0, and write nothing (R255, R256, R258). -/
def Obligations.ReportsResult : Prop :=
  (∀ s : State, s.agent = .proc → exec .prGet s = .next (s.answer
    { words :=
        [(if s.hopincValid then s.hopinc else 0) ++ (s.chan ++ (0#2 ++ (BitVec.ofBool s.updPending ++
            (BitVec.ofBool s.hopincValid ++ (BitVec.ofBool s.intervalValid ++ (BitVec.ofBool s.crcVerify ++
            (BitVec.ofBool s.crcVerified ++ (BitVec.ofBool s.aaValid ++ (0#1 ++ (BitVec.ofNat 2 s.lstate.code ++
            (BitVec.ofNat 3 s.stage.code ++ BitVec.ofNat 2 s.mode.code))))))))))),
          if s.aaValid then s.aa else 0,
          if s.crcVerified then s.crcRaw.setWidth 32 else 0,
          if s.crcVerified then s.crcLfsr.setWidth 32 else 0,
          s.evcnt ++ (if s.intervalValid then s.interval else 0),
          0#8 ++ (s.winSize ++ s.winOffset),
          if s.stage = .connectionFollow then s.lastPktTs else 0,
          if s.stage = .connectionFollow then s.epochTs else 0,
          s.discards] })) ∧
  (∀ s : State, s.agent = .proc →
    (s.aaValid = true → exec .prGetaa s = .next (s.answer { ra := 1, words := [s.aa] })) ∧
    (s.aaValid = false → exec .prGetaa s = .next (s.answer { ra := 0, words := [0] })) ∧
    exec .prGetcv s = .next (s.answer
      { ra := if s.crcVerify then 1 else 0, rb := if s.crcVerified then 1 else 0 }))

/-- `PR_SETCV`, `PR_SETTO` and `LS_FILTER` write the one switch, the one timeout register, the two filter registers, or answer `RANGE`
(R257, R259, R273). -/
def Obligations.SettersResult : Prop :=
  (∀ (on : Byte) (s : State), s.agent = .proc →
    (1 < on.toNat → exec (.prSetcv on) s = .next (s.answer (errorResponse .range))) ∧
    (on.toNat ≤ 1 → exec (.prSetcv on) s = .next (State.answer { s with crcVerify := decide (on.toNat = 1) } {}))) ∧
  (∀ (which : Byte) (ticks : Word) (s : State), s.agent = .proc →
    (2 < which.toNat → exec (.prSetto which ticks) s = .next (s.answer (errorResponse .range))) ∧
    (which.toNat = 0 → exec (.prSetto which ticks) s = .next (State.answer { s with discTimeout := ticks } {})) ∧
    (which.toNat = 1 → exec (.prSetto which ticks) s = .next (State.answer { s with recovTimeout := ticks } {})) ∧
    (which.toNat = 2 → exec (.prSetto which ticks) s = .next (State.answer { s with connTimeout := ticks } {}))) ∧
  (∀ (addr mask : Addr48) (s : State), s.agent = .proc →
    exec (.lsFilter addr mask) s = .next (State.answer { s with filtAddr := addr, filtMask := mask } {}))

/-- `TICK` starts the stage's timeout if it has not started, and runs the three timeouts, each passed only when strictly more ticks have
gone by than its register says (0 turns the first two off): discovery and recovery re-seed, inactivity re-seeds in `PROMISC` mode and
ends the follow in `FOLLOW` mode; in `OFF` it does nothing (R260, R288). -/
def Obligations.TickResult : Prop :=
  ∀ (now : Ts) (s s1 : State) (el idle : Ts), s.agent = .proc →
    s1 = { s with stageTs := if s.stageTsValid then s.stageTs else now, stageTsValid := true } →
    el = now - s1.stageTs → idle = now - s.lastPktTs →
    (s.mode = .off → exec (.tick now) s = .next (s.answer {})) ∧
    (s.mode ≠ .off → s.stage = .discovery →
      (s.discTimeout ≠ 0 ∧ s.discTimeout < el → exec (.tick now) s = .next (s1.reseeded.answer
        { ra := 1,
          events := [.timeout .discovery el, .reseed .discoveryTimeout, .stage s.mode .discovery .listening] })) ∧
      (s.discTimeout = 0 ∨ el ≤ s.discTimeout → exec (.tick now) s = .next (s1.answer {}))) ∧
    (s.mode ≠ .off → s.stage = .crcRecovery ∨ s.stage = .hopIntervalRecovery ∨ s.stage = .hopIncrementRecovery →
      (s.recovTimeout ≠ 0 ∧ s.recovTimeout < el → exec (.tick now) s = .next (s1.reseeded.answer
        { ra := 1,
          events := [.timeout .recovery el, .reseed .recoveryTimeout, .stage s.mode .discovery .listening] })) ∧
      (s.recovTimeout = 0 ∨ el ≤ s.recovTimeout → exec (.tick now) s = .next (s1.answer {}))) ∧
    (s.mode ≠ .off → s.stage = .connectionFollow →
      (s.connTimeout < idle → s.mode = .promisc → exec (.tick now) s = .next (s1.reseeded.answer
        { ra := 1,
          events := [.timeout .inactivity idle, .reseed .inactivity, .stage .promisc .discovery .listening] })) ∧
      (s.connTimeout < idle → s.mode = .follow → exec (.tick now) s = .next (State.answer
        { s1.forget with mode := .off, lstate := .inactive, stage := .idle }
        { ra := 1, events := [.timeout .inactivity idle, .stage .off .idle .inactive] })) ∧
      (idle ≤ s.connTimeout → exec (.tick now) s = .next (s1.answer {}))) ∧
    (s.mode ≠ .off → s.stage = .idle → exec (.tick now) s = .next (s1.answer {}))

/-! ### Connection Link State -/

/-- `LS_FOLLOW` clears what re-seed clears, enters `FOLLOW` mode `LISTENING` and posts the advertising channel; `LS_STOP` and, in
`FOLLOW` mode, `LS_CANCEL` clear it and enter `OFF`; `LS_CANCEL` re-seeds in `PROMISC` mode and has nothing to cancel in `OFF`; out of
domain `RANGE`, in another mode `BADSTATE` (R271, R272, R290). That `LS_CANCEL` re-seeds from every stage of `PROMISC` mode is the model's
reading (log 21: R290's pseudocode tests the mode alone, R230 lists the move from `ConnectionFollow` only). -/
def Obligations.LsFollowStopCancelResult : Prop :=
  (∀ (ch : Byte) (s : State), s.agent = .proc →
    (ch.toNat < 37 ∨ 39 < ch.toNat → exec (.lsFollow ch) s = .next (s.answer (errorResponse .range))) ∧
    (37 ≤ ch.toNat → ch.toNat ≤ 39 → s.mode ≠ .off → exec (.lsFollow ch) s = .next (s.answer (errorResponse .badState))) ∧
    (37 ≤ ch.toNat → ch.toNat ≤ 39 → s.mode = .off → exec (.lsFollow ch) s = .next (State.answer
      { s.forget with mode := .follow, lstate := .listening, stage := .idle, chan := ch, rtChan := ch, rtPending := true }
      { events := [.stage .follow .idle .listening] }))) ∧
  (∀ s : State, s.agent = .proc →
    (s.mode ≠ .follow → exec .lsStop s = .next (s.answer (errorResponse .badState))) ∧
    (s.mode = .follow → exec .lsStop s = .next (State.answer
      { s.forget with mode := .off, lstate := .inactive, stage := .idle } { events := [.stage .off .idle .inactive] })) ∧
    (s.mode = .off → exec .lsCancel s = .next (s.answer { ra := 0 })) ∧
    (s.mode = .promisc → exec .lsCancel s = .next (s.reseeded.answer
      { ra := 1, events := [.reseed .cancel, .stage .promisc .discovery .listening] })) ∧
    (s.mode = .follow → exec .lsCancel s = .next (State.answer
      { s.forget with mode := .off, lstate := .inactive, stage := .idle }
      { ra := 1, events := [.stage .off .idle .inactive] })))

/-- `LS_CONNREQ` takes a request when, under the mask, its initiator or its advertiser address agrees with the filter: it stores every
parameter, tunes to the first data channel and enters `CONN_PENDING`; else it changes nothing; out of domain `RANGE`, not `LISTENING` in
`FOLLOW` mode `BADSTATE` (R274, R275). -/
def Obligations.LsConnreqResult : Prop :=
  ∀ (hopinc : Byte) (aa : Word) (crc : Crc) (winSize : Byte) (winOffset interval : Half) (ts : Ts) (init adv : Addr48) (s : State),
    s.agent = .proc →
    (36 < hopinc.toNat → exec (.lsConnreq hopinc aa crc winSize winOffset interval ts init adv) s =
      .next (s.answer (errorResponse .range))) ∧
    (hopinc.toNat ≤ 36 → s.mode ≠ .follow ∨ s.lstate ≠ .listening →
      exec (.lsConnreq hopinc aa crc winSize winOffset interval ts init adv) s = .next (s.answer (errorResponse .badState))) ∧
    (hopinc.toNat ≤ 36 → s.mode = .follow → s.lstate = .listening →
      (init ^^^ s.filtAddr) &&& s.filtMask ≠ 0 → (adv ^^^ s.filtAddr) &&& s.filtMask ≠ 0 →
      exec (.lsConnreq hopinc aa crc winSize winOffset interval ts init adv) s = .next (s.answer { ra := 0 })) ∧
    (hopinc.toNat ≤ 36 → s.mode = .follow → s.lstate = .listening →
      (init ^^^ s.filtAddr) &&& s.filtMask = 0 ∨ (adv ^^^ s.filtAddr) &&& s.filtMask = 0 →
      exec (.lsConnreq hopinc aa crc winSize winOffset interval ts init adv) s = .next (State.answer
        { s with
          aa := aa, aaValid := true, crcRaw := crc, crcLfsr := rev24 crc, crcVerified := true, crcVerify := true
          winSize := winSize, winOffset := winOffset, interval := interval, intervalValid := true
          hopinc := hopinc, hopincValid := true, updPending := false, evcnt := 0, lastPktTs := ts
          chan := hopinc, rtChan := hopinc, rtPending := true
          lstate := .connPending, stage := .connectionFollow, stageTsValid := false }
        { ra := 1, rb := hopinc.setWidth 16,
          events := [.aa aa .request, .crc crc (rev24 crc), .interval interval, .hopinc hopinc,
            .stage .follow .connectionFollow .connPending] }))

/-- `LS_UPDATE` stores the update record and answers the event counter; `LS_EVENT` counts the event, applies the record when the counter
equals its instant, hops by the increment modulo 37 and posts the channel; both answer `BADSTATE` unless `CONNECTED` (R282 to R284). -/
def Obligations.LsUpdateAndEventResult : Prop :=
  (∀ (winSize : Byte) (instant interval winOffset : Half) (s : State), s.agent = .proc →
    (s.lstate ≠ .connected →
      exec (.lsUpdate winSize instant interval winOffset) s = .next (s.answer (errorResponse .badState))) ∧
    (s.lstate = .connected → exec (.lsUpdate winSize instant interval winOffset) s = .next (State.answer
      { s with
        updWinSize := winSize, updWinOffset := winOffset, updInterval := interval, updInstant := instant, updPending := true }
      { rb := s.evcnt }))) ∧
  (∀ (s : State) (c : Byte), s.agent = .cap → c = BitVec.ofNat 8 ((s.chan.toNat + s.hopinc.toNat) % 37) →
    (s.lstate ≠ .connected → exec .lsEvent s = .next (s.answer (errorResponse .badState))) ∧
    (s.lstate = .connected → s.updPending = true → s.evcnt + 1 = s.updInstant → exec .lsEvent s = .next (State.answer
      { s with
        evcnt := s.evcnt + 1, winSize := s.updWinSize, winOffset := s.updWinOffset, interval := s.updInterval, updPending := false
        chan := c, rtChan := c, rtPending := true }
      { ra := c, rb := s.evcnt + 1, words := [1],
        events := [.update s.updInterval s.updWinSize s.updWinOffset (s.evcnt + 1)] })) ∧
    (s.lstate = .connected → s.updPending = false ∨ s.evcnt + 1 ≠ s.updInstant → exec .lsEvent s = .next (State.answer
      { s with evcnt := s.evcnt + 1, chan := c, rtChan := c, rtPending := true }
      { ra := c, rb := s.evcnt + 1, words := [0] })))

/-- After `n` connection events the channel is `(c0 + n * HOPINC) mod 37` and is the one posted; with an increment of 1 to 36 the 37
channels of `n = 0..36` are all different, and 37 events lead back (R278, R283). -/
def Obligations.HopSequence : Prop :=
  (∀ (n : Nat) (s : State), s.lstate = .connected → s.chan.toNat ≤ 36 → ∃ t, repeated .cap .lsEvent n s = .next t ∧
    t.chan.toNat = (s.chan.toNat + n * s.hopinc.toNat) % 37 ∧ t.lstate = .connected ∧ t.hopinc = s.hopinc ∧
    t.evcnt = s.evcnt + BitVec.ofNat 16 n ∧ (n ≠ 0 → t.rtPending = true ∧ t.rtChan = t.chan)) ∧
  (∀ (m n : Nat) (s t u : State), s.lstate = .connected → s.chan.toNat ≤ 36 → 1 ≤ s.hopinc.toNat → s.hopinc.toNat ≤ 36 →
    repeated .cap .lsEvent m s = .next t → repeated .cap .lsEvent n s = .next u → (t.chan = u.chan ↔ m % 37 = n % 37))

/-- An update stored while the counter is `e` is applied by the `((instant - e - 1) mod 2^16) + 1`-th `LS_EVENT` after the store and by
no other: until then the interval and the window keep their values, from it on they hold the new ones (R285). -/
def Obligations.UpdateInstantExact : Prop :=
  ∀ (winSize : Byte) (instant interval winOffset : Half) (s u : State) (k n : Nat), s.lstate = .connected →
    issued .proc (.lsUpdate winSize instant interval winOffset) s = .next u →
    k = (instant - s.evcnt - 1).toNat + 1 →
    ∃ t, repeated .cap .lsEvent n u = .next t ∧
      (n < k → t.interval = s.interval ∧ t.winSize = s.winSize ∧ t.winOffset = s.winOffset ∧ t.updPending = true) ∧
      (k ≤ n → t.interval = interval ∧ t.winSize = winSize ∧ t.winOffset = winOffset ∧ t.updPending = false) ∧
      (n ≠ 0 → ∃ r, t.lastOn .cap = some r ∧ r.status = .ok ∧ r.words = [if n = k then 1 else 0] ∧
        (n = k → r.rb = instant))

/-- `RT_TAKE` answers the posted channel and the frequency that `CM_I2F` gives for it and clears the mailbox's flag, or answers `EMPTY`
(R291). -/
def Obligations.RtTakeResult : Prop :=
  (∀ s : State, s.agent = .cap → s.rtPending = false → exec .rtTake s = .next (s.answer (errorResponse .empty))) ∧
  (∀ s : State, s.agent = .cap → s.rtPending = true → s.rtChan.toNat ≤ 39 → ∃ f : Half,
    exec .rtTake s = .next (State.answer { s with rtPending := false } { ra := s.rtChan, rb := f }) ∧
    exec (.cmI2f s.rtChan) s = .next (s.answer { rb := f }))

/-! ### The whole block -/

/-- A value element whose flag is 0 holds no value: no operation reads it. Two states that differ only in such elements take every
operation to states that differ only in such elements, with the same answers (R48). -/
def Obligations.GuardedValuesUnread : Prop :=
  ∀ (i : Instr) (s s' t : State), s.rowsHolding = 1 → s.ValuesWf → s'.ValuesWf → s.shown = s'.shown → exec i s = .next t →
    ∃ t', exec i s' = .next t' ∧ t.shown = t'.shown

/-- An operation changes the triple of mode, link state and stage only as R230 and R270 list, by the operation they name: no stage is
skipped, and the connected state is entered only by a recovered increment or by the first packet after a request (R230, R270; for
`LS_CANCEL` in `PROMISC` mode R290, log 21). -/
def Obligations.OnlyTheseTransitions : Prop :=
  ∀ (i : Instr) (s t : State), s.rowsHolding = 1 → exec i s = .next t →
    t.triple = s.triple ∨ (s.triple, t.triple) ∈ transitions (opOf i)

/-- Who writes what: through `CAP`'s operations only the pool, the discards, the mailbox, what `LS_EVENT` writes and `CAP`'s own stream
context change, a buffer's contents only while it is being captured; through `PROC`'s operations no buffer's contents, no discard count
and no stream context but its own change, and a tag only from `QUEUED` to `FREE` (R322). -/
def Obligations.WriteRights : Prop :=
  (∀ (i : Instr) (s t : State), s.agent = .cap → exec i s = .next t →
    t = { s with
          pb := t.pb, pbq := t.pbq, discards := t.discards, rtPending := t.rtPending, rtChan := t.rtChan
          evcnt := t.evcnt, chan := t.chan, interval := t.interval, winSize := t.winSize, winOffset := t.winOffset
          updPending := t.updPending, whCap := t.whCap, capPort := t.capPort } ∧
    (opOf i ≠ .lsEvent → t.evcnt = s.evcnt ∧ t.chan = s.chan ∧ t.interval = s.interval ∧ t.winSize = s.winSize ∧
      t.winOffset = s.winOffset ∧ t.updPending = s.updPending) ∧
    (∀ b : Fin 4, s.pb[b].tag ≠ .capturing → t.pb[b].tag ≠ .capturing → t.pb[b] = { s.pb[b] with tag := t.pb[b].tag })) ∧
  (∀ (i : Instr) (s t : State), s.agent = .proc → exec i s = .next t →
    t.discards = s.discards ∧ t.whCap = s.whCap ∧ t.capPort = s.capPort ∧
    (∀ b : Fin 4, t.pb[b] = s.pb[b] ∨ (s.pb[b].tag = .queued ∧ t.pb[b] = { s.pb[b] with tag := .free })) ∧
    (∀ b : Fin 4, b ∈ t.pbq → b ∈ s.pbq))
end

