-- ==== Sys2Proof/Laws/State.lean ====
section
/-! SUPPORT. One lemma per field per named update of the state, each true by `rfl`: no proof about a field needs to unfold a record
update. Where an update gives a field a value that depends on the state, the definition itself says it and there is no lemma here. -/

namespace Sys2Proof.Machine

/-! ### `State.answer` -/

@[simp] theorem State.answer_mode (s : State) (r : Response) : (s.answer r).mode = s.mode := rfl
@[simp] theorem State.answer_stage (s : State) (r : Response) : (s.answer r).stage = s.stage := rfl
@[simp] theorem State.answer_lstate (s : State) (r : Response) : (s.answer r).lstate = s.lstate := rfl
@[simp] theorem State.answer_stageTs (s : State) (r : Response) : (s.answer r).stageTs = s.stageTs := rfl
@[simp] theorem State.answer_stageTsValid (s : State) (r : Response) : (s.answer r).stageTsValid = s.stageTsValid := rfl
@[simp] theorem State.answer_aa (s : State) (r : Response) : (s.answer r).aa = s.aa := rfl
@[simp] theorem State.answer_aaValid (s : State) (r : Response) : (s.answer r).aaValid = s.aaValid := rfl
@[simp] theorem State.answer_crcLfsr (s : State) (r : Response) : (s.answer r).crcLfsr = s.crcLfsr := rfl
@[simp] theorem State.answer_crcRaw (s : State) (r : Response) : (s.answer r).crcRaw = s.crcRaw := rfl
@[simp] theorem State.answer_crcVerified (s : State) (r : Response) : (s.answer r).crcVerified = s.crcVerified := rfl
@[simp] theorem State.answer_crcVerify (s : State) (r : Response) : (s.answer r).crcVerify = s.crcVerify := rfl
@[simp] theorem State.answer_hopinc (s : State) (r : Response) : (s.answer r).hopinc = s.hopinc := rfl
@[simp] theorem State.answer_hopincValid (s : State) (r : Response) : (s.answer r).hopincValid = s.hopincValid := rfl
@[simp] theorem State.answer_chan (s : State) (r : Response) : (s.answer r).chan = s.chan := rfl
@[simp] theorem State.answer_discChan (s : State) (r : Response) : (s.answer r).discChan = s.discChan := rfl
@[simp] theorem State.answer_interval (s : State) (r : Response) : (s.answer r).interval = s.interval := rfl
@[simp] theorem State.answer_intervalValid (s : State) (r : Response) : (s.answer r).intervalValid = s.intervalValid := rfl
@[simp] theorem State.answer_winSize (s : State) (r : Response) : (s.answer r).winSize = s.winSize := rfl
@[simp] theorem State.answer_winOffset (s : State) (r : Response) : (s.answer r).winOffset = s.winOffset := rfl
@[simp] theorem State.answer_evcnt (s : State) (r : Response) : (s.answer r).evcnt = s.evcnt := rfl
@[simp] theorem State.answer_lastPktTs (s : State) (r : Response) : (s.answer r).lastPktTs = s.lastPktTs := rfl
@[simp] theorem State.answer_epochTs (s : State) (r : Response) : (s.answer r).epochTs = s.epochTs := rfl
@[simp] theorem State.answer_updPending (s : State) (r : Response) : (s.answer r).updPending = s.updPending := rfl
@[simp] theorem State.answer_updWinSize (s : State) (r : Response) : (s.answer r).updWinSize = s.updWinSize := rfl
@[simp] theorem State.answer_updWinOffset (s : State) (r : Response) : (s.answer r).updWinOffset = s.updWinOffset := rfl
@[simp] theorem State.answer_updInterval (s : State) (r : Response) : (s.answer r).updInterval = s.updInterval := rfl
@[simp] theorem State.answer_updInstant (s : State) (r : Response) : (s.answer r).updInstant = s.updInstant := rfl
@[simp] theorem State.answer_hiSmallest (s : State) (r : Response) : (s.answer r).hiSmallest = s.hiSmallest := rfl
@[simp] theorem State.answer_hiMatch (s : State) (r : Response) : (s.answer r).hiMatch = s.hiMatch := rfl
@[simp] theorem State.answer_hiEst (s : State) (r : Response) : (s.answer r).hiEst = s.hiEst := rfl
@[simp] theorem State.answer_hiPrevTs (s : State) (r : Response) : (s.answer r).hiPrevTs = s.hiPrevTs := rfl
@[simp] theorem State.answer_hpFirstTs (s : State) (r : Response) : (s.answer r).hpFirstTs = s.hpFirstTs := rfl
@[simp] theorem State.answer_hpFirstValid (s : State) (r : Response) : (s.answer r).hpFirstValid = s.hpFirstValid := rfl
@[simp] theorem State.answer_hpRetries (s : State) (r : Response) : (s.answer r).hpRetries = s.hpRetries := rfl
@[simp] theorem State.answer_filtAddr (s : State) (r : Response) : (s.answer r).filtAddr = s.filtAddr := rfl
@[simp] theorem State.answer_filtMask (s : State) (r : Response) : (s.answer r).filtMask = s.filtMask := rfl
@[simp] theorem State.answer_discTimeout (s : State) (r : Response) : (s.answer r).discTimeout = s.discTimeout := rfl
@[simp] theorem State.answer_recovTimeout (s : State) (r : Response) : (s.answer r).recovTimeout = s.recovTimeout := rfl
@[simp] theorem State.answer_connTimeout (s : State) (r : Response) : (s.answer r).connTimeout = s.connTimeout := rfl
@[simp] theorem State.answer_ac (s : State) (r : Response) : (s.answer r).ac = s.ac := rfl
@[simp] theorem State.answer_pb (s : State) (r : Response) : (s.answer r).pb = s.pb := rfl
@[simp] theorem State.answer_pbq (s : State) (r : Response) : (s.answer r).pbq = s.pbq := rfl
@[simp] theorem State.answer_discards (s : State) (r : Response) : (s.answer r).discards = s.discards := rfl
@[simp] theorem State.answer_rtPending (s : State) (r : Response) : (s.answer r).rtPending = s.rtPending := rfl
@[simp] theorem State.answer_rtChan (s : State) (r : Response) : (s.answer r).rtChan = s.rtChan := rfl
@[simp] theorem State.answer_whCap (s : State) (r : Response) : (s.answer r).whCap = s.whCap := rfl
@[simp] theorem State.answer_whProc (s : State) (r : Response) : (s.answer r).whProc = s.whProc := rfl
@[simp] theorem State.answer_agent (s : State) (r : Response) : (s.answer r).agent = s.agent := rfl
@[simp] theorem State.answer_arbPlan (s : State) (r : Response) : (s.answer r).arbPlan = s.arbPlan := rfl
@[simp] theorem State.answer_arbSeq (s : State) (r : Response) : (s.answer r).arbSeq = s.arbSeq := rfl
@[simp] theorem State.answer_params (s : State) (r : Response) : (s.answer r).params = s.params := rfl

/-! ### `State.setPort` -/

@[simp] theorem State.setPort_mode (s : State) (g : Agent) (p : Port) : (s.setPort g p).mode = s.mode := rfl
@[simp] theorem State.setPort_stage (s : State) (g : Agent) (p : Port) : (s.setPort g p).stage = s.stage := rfl
@[simp] theorem State.setPort_lstate (s : State) (g : Agent) (p : Port) : (s.setPort g p).lstate = s.lstate := rfl
@[simp] theorem State.setPort_stageTs (s : State) (g : Agent) (p : Port) : (s.setPort g p).stageTs = s.stageTs := rfl
@[simp] theorem State.setPort_stageTsValid (s : State) (g : Agent) (p : Port) : (s.setPort g p).stageTsValid = s.stageTsValid := rfl
@[simp] theorem State.setPort_aa (s : State) (g : Agent) (p : Port) : (s.setPort g p).aa = s.aa := rfl
@[simp] theorem State.setPort_aaValid (s : State) (g : Agent) (p : Port) : (s.setPort g p).aaValid = s.aaValid := rfl
@[simp] theorem State.setPort_crcLfsr (s : State) (g : Agent) (p : Port) : (s.setPort g p).crcLfsr = s.crcLfsr := rfl
@[simp] theorem State.setPort_crcRaw (s : State) (g : Agent) (p : Port) : (s.setPort g p).crcRaw = s.crcRaw := rfl
@[simp] theorem State.setPort_crcVerified (s : State) (g : Agent) (p : Port) : (s.setPort g p).crcVerified = s.crcVerified := rfl
@[simp] theorem State.setPort_crcVerify (s : State) (g : Agent) (p : Port) : (s.setPort g p).crcVerify = s.crcVerify := rfl
@[simp] theorem State.setPort_hopinc (s : State) (g : Agent) (p : Port) : (s.setPort g p).hopinc = s.hopinc := rfl
@[simp] theorem State.setPort_hopincValid (s : State) (g : Agent) (p : Port) : (s.setPort g p).hopincValid = s.hopincValid := rfl
@[simp] theorem State.setPort_chan (s : State) (g : Agent) (p : Port) : (s.setPort g p).chan = s.chan := rfl
@[simp] theorem State.setPort_discChan (s : State) (g : Agent) (p : Port) : (s.setPort g p).discChan = s.discChan := rfl
@[simp] theorem State.setPort_interval (s : State) (g : Agent) (p : Port) : (s.setPort g p).interval = s.interval := rfl
@[simp] theorem State.setPort_intervalValid (s : State) (g : Agent) (p : Port) : (s.setPort g p).intervalValid = s.intervalValid := rfl
@[simp] theorem State.setPort_winSize (s : State) (g : Agent) (p : Port) : (s.setPort g p).winSize = s.winSize := rfl
@[simp] theorem State.setPort_winOffset (s : State) (g : Agent) (p : Port) : (s.setPort g p).winOffset = s.winOffset := rfl
@[simp] theorem State.setPort_evcnt (s : State) (g : Agent) (p : Port) : (s.setPort g p).evcnt = s.evcnt := rfl
@[simp] theorem State.setPort_lastPktTs (s : State) (g : Agent) (p : Port) : (s.setPort g p).lastPktTs = s.lastPktTs := rfl
@[simp] theorem State.setPort_epochTs (s : State) (g : Agent) (p : Port) : (s.setPort g p).epochTs = s.epochTs := rfl
@[simp] theorem State.setPort_updPending (s : State) (g : Agent) (p : Port) : (s.setPort g p).updPending = s.updPending := rfl
@[simp] theorem State.setPort_updWinSize (s : State) (g : Agent) (p : Port) : (s.setPort g p).updWinSize = s.updWinSize := rfl
@[simp] theorem State.setPort_updWinOffset (s : State) (g : Agent) (p : Port) : (s.setPort g p).updWinOffset = s.updWinOffset := rfl
@[simp] theorem State.setPort_updInterval (s : State) (g : Agent) (p : Port) : (s.setPort g p).updInterval = s.updInterval := rfl
@[simp] theorem State.setPort_updInstant (s : State) (g : Agent) (p : Port) : (s.setPort g p).updInstant = s.updInstant := rfl
@[simp] theorem State.setPort_hiSmallest (s : State) (g : Agent) (p : Port) : (s.setPort g p).hiSmallest = s.hiSmallest := rfl
@[simp] theorem State.setPort_hiMatch (s : State) (g : Agent) (p : Port) : (s.setPort g p).hiMatch = s.hiMatch := rfl
@[simp] theorem State.setPort_hiEst (s : State) (g : Agent) (p : Port) : (s.setPort g p).hiEst = s.hiEst := rfl
@[simp] theorem State.setPort_hiPrevTs (s : State) (g : Agent) (p : Port) : (s.setPort g p).hiPrevTs = s.hiPrevTs := rfl
@[simp] theorem State.setPort_hpFirstTs (s : State) (g : Agent) (p : Port) : (s.setPort g p).hpFirstTs = s.hpFirstTs := rfl
@[simp] theorem State.setPort_hpFirstValid (s : State) (g : Agent) (p : Port) : (s.setPort g p).hpFirstValid = s.hpFirstValid := rfl
@[simp] theorem State.setPort_hpRetries (s : State) (g : Agent) (p : Port) : (s.setPort g p).hpRetries = s.hpRetries := rfl
@[simp] theorem State.setPort_filtAddr (s : State) (g : Agent) (p : Port) : (s.setPort g p).filtAddr = s.filtAddr := rfl
@[simp] theorem State.setPort_filtMask (s : State) (g : Agent) (p : Port) : (s.setPort g p).filtMask = s.filtMask := rfl
@[simp] theorem State.setPort_discTimeout (s : State) (g : Agent) (p : Port) : (s.setPort g p).discTimeout = s.discTimeout := rfl
@[simp] theorem State.setPort_recovTimeout (s : State) (g : Agent) (p : Port) : (s.setPort g p).recovTimeout = s.recovTimeout := rfl
@[simp] theorem State.setPort_connTimeout (s : State) (g : Agent) (p : Port) : (s.setPort g p).connTimeout = s.connTimeout := rfl
@[simp] theorem State.setPort_ac (s : State) (g : Agent) (p : Port) : (s.setPort g p).ac = s.ac := rfl
@[simp] theorem State.setPort_pb (s : State) (g : Agent) (p : Port) : (s.setPort g p).pb = s.pb := rfl
@[simp] theorem State.setPort_pbq (s : State) (g : Agent) (p : Port) : (s.setPort g p).pbq = s.pbq := rfl
@[simp] theorem State.setPort_discards (s : State) (g : Agent) (p : Port) : (s.setPort g p).discards = s.discards := rfl
@[simp] theorem State.setPort_rtPending (s : State) (g : Agent) (p : Port) : (s.setPort g p).rtPending = s.rtPending := rfl
@[simp] theorem State.setPort_rtChan (s : State) (g : Agent) (p : Port) : (s.setPort g p).rtChan = s.rtChan := rfl
@[simp] theorem State.setPort_whCap (s : State) (g : Agent) (p : Port) : (s.setPort g p).whCap = s.whCap := rfl
@[simp] theorem State.setPort_whProc (s : State) (g : Agent) (p : Port) : (s.setPort g p).whProc = s.whProc := rfl
@[simp] theorem State.setPort_agent (s : State) (g : Agent) (p : Port) : (s.setPort g p).agent = s.agent := rfl
@[simp] theorem State.setPort_arbPlan (s : State) (g : Agent) (p : Port) : (s.setPort g p).arbPlan = s.arbPlan := rfl
@[simp] theorem State.setPort_arbSeq (s : State) (g : Agent) (p : Port) : (s.setPort g p).arbSeq = s.arbSeq := rfl
@[simp] theorem State.setPort_params (s : State) (g : Agent) (p : Port) : (s.setPort g p).params = s.params := rfl

/-! ### `State.serving` -/

@[simp] theorem State.serving_mode (s : State) (g : Agent) (rest : List Beat) : (s.serving g rest).mode = s.mode := rfl
@[simp] theorem State.serving_stage (s : State) (g : Agent) (rest : List Beat) : (s.serving g rest).stage = s.stage := rfl
@[simp] theorem State.serving_lstate (s : State) (g : Agent) (rest : List Beat) : (s.serving g rest).lstate = s.lstate := rfl
@[simp] theorem State.serving_stageTs (s : State) (g : Agent) (rest : List Beat) : (s.serving g rest).stageTs = s.stageTs := rfl
@[simp] theorem State.serving_stageTsValid (s : State) (g : Agent) (rest : List Beat) : (s.serving g rest).stageTsValid = s.stageTsValid := rfl
@[simp] theorem State.serving_aa (s : State) (g : Agent) (rest : List Beat) : (s.serving g rest).aa = s.aa := rfl
@[simp] theorem State.serving_aaValid (s : State) (g : Agent) (rest : List Beat) : (s.serving g rest).aaValid = s.aaValid := rfl
@[simp] theorem State.serving_crcLfsr (s : State) (g : Agent) (rest : List Beat) : (s.serving g rest).crcLfsr = s.crcLfsr := rfl
@[simp] theorem State.serving_crcRaw (s : State) (g : Agent) (rest : List Beat) : (s.serving g rest).crcRaw = s.crcRaw := rfl
@[simp] theorem State.serving_crcVerified (s : State) (g : Agent) (rest : List Beat) : (s.serving g rest).crcVerified = s.crcVerified := rfl
@[simp] theorem State.serving_crcVerify (s : State) (g : Agent) (rest : List Beat) : (s.serving g rest).crcVerify = s.crcVerify := rfl
@[simp] theorem State.serving_hopinc (s : State) (g : Agent) (rest : List Beat) : (s.serving g rest).hopinc = s.hopinc := rfl
@[simp] theorem State.serving_hopincValid (s : State) (g : Agent) (rest : List Beat) : (s.serving g rest).hopincValid = s.hopincValid := rfl
@[simp] theorem State.serving_chan (s : State) (g : Agent) (rest : List Beat) : (s.serving g rest).chan = s.chan := rfl
@[simp] theorem State.serving_discChan (s : State) (g : Agent) (rest : List Beat) : (s.serving g rest).discChan = s.discChan := rfl
@[simp] theorem State.serving_interval (s : State) (g : Agent) (rest : List Beat) : (s.serving g rest).interval = s.interval := rfl
@[simp] theorem State.serving_intervalValid (s : State) (g : Agent) (rest : List Beat) : (s.serving g rest).intervalValid = s.intervalValid := rfl
@[simp] theorem State.serving_winSize (s : State) (g : Agent) (rest : List Beat) : (s.serving g rest).winSize = s.winSize := rfl
@[simp] theorem State.serving_winOffset (s : State) (g : Agent) (rest : List Beat) : (s.serving g rest).winOffset = s.winOffset := rfl
@[simp] theorem State.serving_evcnt (s : State) (g : Agent) (rest : List Beat) : (s.serving g rest).evcnt = s.evcnt := rfl
@[simp] theorem State.serving_lastPktTs (s : State) (g : Agent) (rest : List Beat) : (s.serving g rest).lastPktTs = s.lastPktTs := rfl
@[simp] theorem State.serving_epochTs (s : State) (g : Agent) (rest : List Beat) : (s.serving g rest).epochTs = s.epochTs := rfl
@[simp] theorem State.serving_updPending (s : State) (g : Agent) (rest : List Beat) : (s.serving g rest).updPending = s.updPending := rfl
@[simp] theorem State.serving_updWinSize (s : State) (g : Agent) (rest : List Beat) : (s.serving g rest).updWinSize = s.updWinSize := rfl
@[simp] theorem State.serving_updWinOffset (s : State) (g : Agent) (rest : List Beat) : (s.serving g rest).updWinOffset = s.updWinOffset := rfl
@[simp] theorem State.serving_updInterval (s : State) (g : Agent) (rest : List Beat) : (s.serving g rest).updInterval = s.updInterval := rfl
@[simp] theorem State.serving_updInstant (s : State) (g : Agent) (rest : List Beat) : (s.serving g rest).updInstant = s.updInstant := rfl
@[simp] theorem State.serving_hiSmallest (s : State) (g : Agent) (rest : List Beat) : (s.serving g rest).hiSmallest = s.hiSmallest := rfl
@[simp] theorem State.serving_hiMatch (s : State) (g : Agent) (rest : List Beat) : (s.serving g rest).hiMatch = s.hiMatch := rfl
@[simp] theorem State.serving_hiEst (s : State) (g : Agent) (rest : List Beat) : (s.serving g rest).hiEst = s.hiEst := rfl
@[simp] theorem State.serving_hiPrevTs (s : State) (g : Agent) (rest : List Beat) : (s.serving g rest).hiPrevTs = s.hiPrevTs := rfl
@[simp] theorem State.serving_hpFirstTs (s : State) (g : Agent) (rest : List Beat) : (s.serving g rest).hpFirstTs = s.hpFirstTs := rfl
@[simp] theorem State.serving_hpFirstValid (s : State) (g : Agent) (rest : List Beat) : (s.serving g rest).hpFirstValid = s.hpFirstValid := rfl
@[simp] theorem State.serving_hpRetries (s : State) (g : Agent) (rest : List Beat) : (s.serving g rest).hpRetries = s.hpRetries := rfl
@[simp] theorem State.serving_filtAddr (s : State) (g : Agent) (rest : List Beat) : (s.serving g rest).filtAddr = s.filtAddr := rfl
@[simp] theorem State.serving_filtMask (s : State) (g : Agent) (rest : List Beat) : (s.serving g rest).filtMask = s.filtMask := rfl
@[simp] theorem State.serving_discTimeout (s : State) (g : Agent) (rest : List Beat) : (s.serving g rest).discTimeout = s.discTimeout := rfl
@[simp] theorem State.serving_recovTimeout (s : State) (g : Agent) (rest : List Beat) : (s.serving g rest).recovTimeout = s.recovTimeout := rfl
@[simp] theorem State.serving_connTimeout (s : State) (g : Agent) (rest : List Beat) : (s.serving g rest).connTimeout = s.connTimeout := rfl
@[simp] theorem State.serving_ac (s : State) (g : Agent) (rest : List Beat) : (s.serving g rest).ac = s.ac := rfl
@[simp] theorem State.serving_pb (s : State) (g : Agent) (rest : List Beat) : (s.serving g rest).pb = s.pb := rfl
@[simp] theorem State.serving_pbq (s : State) (g : Agent) (rest : List Beat) : (s.serving g rest).pbq = s.pbq := rfl
@[simp] theorem State.serving_discards (s : State) (g : Agent) (rest : List Beat) : (s.serving g rest).discards = s.discards := rfl
@[simp] theorem State.serving_rtPending (s : State) (g : Agent) (rest : List Beat) : (s.serving g rest).rtPending = s.rtPending := rfl
@[simp] theorem State.serving_rtChan (s : State) (g : Agent) (rest : List Beat) : (s.serving g rest).rtChan = s.rtChan := rfl
@[simp] theorem State.serving_whCap (s : State) (g : Agent) (rest : List Beat) : (s.serving g rest).whCap = s.whCap := rfl
@[simp] theorem State.serving_whProc (s : State) (g : Agent) (rest : List Beat) : (s.serving g rest).whProc = s.whProc := rfl
@[simp] theorem State.serving_agent (s : State) (g : Agent) (rest : List Beat) : (s.serving g rest).agent = g := rfl
@[simp] theorem State.serving_arbPlan (s : State) (g : Agent) (rest : List Beat) : (s.serving g rest).arbPlan = s.arbPlan := rfl
@[simp] theorem State.serving_arbSeq (s : State) (g : Agent) (rest : List Beat) : (s.serving g rest).arbSeq = s.arbSeq := rfl
@[simp] theorem State.serving_params (s : State) (g : Agent) (rest : List Beat) : (s.serving g rest).params = s.params := rfl

/-! ### `State.as` -/

@[simp] theorem State.as_mode (s : State) (g : Agent) : (s.as g).mode = s.mode := rfl
@[simp] theorem State.as_stage (s : State) (g : Agent) : (s.as g).stage = s.stage := rfl
@[simp] theorem State.as_lstate (s : State) (g : Agent) : (s.as g).lstate = s.lstate := rfl
@[simp] theorem State.as_stageTs (s : State) (g : Agent) : (s.as g).stageTs = s.stageTs := rfl
@[simp] theorem State.as_stageTsValid (s : State) (g : Agent) : (s.as g).stageTsValid = s.stageTsValid := rfl
@[simp] theorem State.as_aa (s : State) (g : Agent) : (s.as g).aa = s.aa := rfl
@[simp] theorem State.as_aaValid (s : State) (g : Agent) : (s.as g).aaValid = s.aaValid := rfl
@[simp] theorem State.as_crcLfsr (s : State) (g : Agent) : (s.as g).crcLfsr = s.crcLfsr := rfl
@[simp] theorem State.as_crcRaw (s : State) (g : Agent) : (s.as g).crcRaw = s.crcRaw := rfl
@[simp] theorem State.as_crcVerified (s : State) (g : Agent) : (s.as g).crcVerified = s.crcVerified := rfl
@[simp] theorem State.as_crcVerify (s : State) (g : Agent) : (s.as g).crcVerify = s.crcVerify := rfl
@[simp] theorem State.as_hopinc (s : State) (g : Agent) : (s.as g).hopinc = s.hopinc := rfl
@[simp] theorem State.as_hopincValid (s : State) (g : Agent) : (s.as g).hopincValid = s.hopincValid := rfl
@[simp] theorem State.as_chan (s : State) (g : Agent) : (s.as g).chan = s.chan := rfl
@[simp] theorem State.as_discChan (s : State) (g : Agent) : (s.as g).discChan = s.discChan := rfl
@[simp] theorem State.as_interval (s : State) (g : Agent) : (s.as g).interval = s.interval := rfl
@[simp] theorem State.as_intervalValid (s : State) (g : Agent) : (s.as g).intervalValid = s.intervalValid := rfl
@[simp] theorem State.as_winSize (s : State) (g : Agent) : (s.as g).winSize = s.winSize := rfl
@[simp] theorem State.as_winOffset (s : State) (g : Agent) : (s.as g).winOffset = s.winOffset := rfl
@[simp] theorem State.as_evcnt (s : State) (g : Agent) : (s.as g).evcnt = s.evcnt := rfl
@[simp] theorem State.as_lastPktTs (s : State) (g : Agent) : (s.as g).lastPktTs = s.lastPktTs := rfl
@[simp] theorem State.as_epochTs (s : State) (g : Agent) : (s.as g).epochTs = s.epochTs := rfl
@[simp] theorem State.as_updPending (s : State) (g : Agent) : (s.as g).updPending = s.updPending := rfl
@[simp] theorem State.as_updWinSize (s : State) (g : Agent) : (s.as g).updWinSize = s.updWinSize := rfl
@[simp] theorem State.as_updWinOffset (s : State) (g : Agent) : (s.as g).updWinOffset = s.updWinOffset := rfl
@[simp] theorem State.as_updInterval (s : State) (g : Agent) : (s.as g).updInterval = s.updInterval := rfl
@[simp] theorem State.as_updInstant (s : State) (g : Agent) : (s.as g).updInstant = s.updInstant := rfl
@[simp] theorem State.as_hiSmallest (s : State) (g : Agent) : (s.as g).hiSmallest = s.hiSmallest := rfl
@[simp] theorem State.as_hiMatch (s : State) (g : Agent) : (s.as g).hiMatch = s.hiMatch := rfl
@[simp] theorem State.as_hiEst (s : State) (g : Agent) : (s.as g).hiEst = s.hiEst := rfl
@[simp] theorem State.as_hiPrevTs (s : State) (g : Agent) : (s.as g).hiPrevTs = s.hiPrevTs := rfl
@[simp] theorem State.as_hpFirstTs (s : State) (g : Agent) : (s.as g).hpFirstTs = s.hpFirstTs := rfl
@[simp] theorem State.as_hpFirstValid (s : State) (g : Agent) : (s.as g).hpFirstValid = s.hpFirstValid := rfl
@[simp] theorem State.as_hpRetries (s : State) (g : Agent) : (s.as g).hpRetries = s.hpRetries := rfl
@[simp] theorem State.as_filtAddr (s : State) (g : Agent) : (s.as g).filtAddr = s.filtAddr := rfl
@[simp] theorem State.as_filtMask (s : State) (g : Agent) : (s.as g).filtMask = s.filtMask := rfl
@[simp] theorem State.as_discTimeout (s : State) (g : Agent) : (s.as g).discTimeout = s.discTimeout := rfl
@[simp] theorem State.as_recovTimeout (s : State) (g : Agent) : (s.as g).recovTimeout = s.recovTimeout := rfl
@[simp] theorem State.as_connTimeout (s : State) (g : Agent) : (s.as g).connTimeout = s.connTimeout := rfl
@[simp] theorem State.as_ac (s : State) (g : Agent) : (s.as g).ac = s.ac := rfl
@[simp] theorem State.as_pb (s : State) (g : Agent) : (s.as g).pb = s.pb := rfl
@[simp] theorem State.as_pbq (s : State) (g : Agent) : (s.as g).pbq = s.pbq := rfl
@[simp] theorem State.as_discards (s : State) (g : Agent) : (s.as g).discards = s.discards := rfl
@[simp] theorem State.as_rtPending (s : State) (g : Agent) : (s.as g).rtPending = s.rtPending := rfl
@[simp] theorem State.as_rtChan (s : State) (g : Agent) : (s.as g).rtChan = s.rtChan := rfl
@[simp] theorem State.as_whCap (s : State) (g : Agent) : (s.as g).whCap = s.whCap := rfl
@[simp] theorem State.as_whProc (s : State) (g : Agent) : (s.as g).whProc = s.whProc := rfl
@[simp] theorem State.as_capPort (s : State) (g : Agent) : (s.as g).capPort = s.capPort := rfl
@[simp] theorem State.as_procPort (s : State) (g : Agent) : (s.as g).procPort = s.procPort := rfl
@[simp] theorem State.as_agent (s : State) (g : Agent) : (s.as g).agent = g := rfl
@[simp] theorem State.as_arbPlan (s : State) (g : Agent) : (s.as g).arbPlan = s.arbPlan := rfl
@[simp] theorem State.as_arbSeq (s : State) (g : Agent) : (s.as g).arbSeq = s.arbSeq := rfl
@[simp] theorem State.as_params (s : State) (g : Agent) : (s.as g).params = s.params := rfl

/-! ### `State.setBuf` -/

@[simp] theorem State.setBuf_mode (s : State) (b : Fin 4) (p : Buffer) : (s.setBuf b p).mode = s.mode := rfl
@[simp] theorem State.setBuf_stage (s : State) (b : Fin 4) (p : Buffer) : (s.setBuf b p).stage = s.stage := rfl
@[simp] theorem State.setBuf_lstate (s : State) (b : Fin 4) (p : Buffer) : (s.setBuf b p).lstate = s.lstate := rfl
@[simp] theorem State.setBuf_stageTs (s : State) (b : Fin 4) (p : Buffer) : (s.setBuf b p).stageTs = s.stageTs := rfl
@[simp] theorem State.setBuf_stageTsValid (s : State) (b : Fin 4) (p : Buffer) : (s.setBuf b p).stageTsValid = s.stageTsValid := rfl
@[simp] theorem State.setBuf_aa (s : State) (b : Fin 4) (p : Buffer) : (s.setBuf b p).aa = s.aa := rfl
@[simp] theorem State.setBuf_aaValid (s : State) (b : Fin 4) (p : Buffer) : (s.setBuf b p).aaValid = s.aaValid := rfl
@[simp] theorem State.setBuf_crcLfsr (s : State) (b : Fin 4) (p : Buffer) : (s.setBuf b p).crcLfsr = s.crcLfsr := rfl
@[simp] theorem State.setBuf_crcRaw (s : State) (b : Fin 4) (p : Buffer) : (s.setBuf b p).crcRaw = s.crcRaw := rfl
@[simp] theorem State.setBuf_crcVerified (s : State) (b : Fin 4) (p : Buffer) : (s.setBuf b p).crcVerified = s.crcVerified := rfl
@[simp] theorem State.setBuf_crcVerify (s : State) (b : Fin 4) (p : Buffer) : (s.setBuf b p).crcVerify = s.crcVerify := rfl
@[simp] theorem State.setBuf_hopinc (s : State) (b : Fin 4) (p : Buffer) : (s.setBuf b p).hopinc = s.hopinc := rfl
@[simp] theorem State.setBuf_hopincValid (s : State) (b : Fin 4) (p : Buffer) : (s.setBuf b p).hopincValid = s.hopincValid := rfl
@[simp] theorem State.setBuf_chan (s : State) (b : Fin 4) (p : Buffer) : (s.setBuf b p).chan = s.chan := rfl
@[simp] theorem State.setBuf_discChan (s : State) (b : Fin 4) (p : Buffer) : (s.setBuf b p).discChan = s.discChan := rfl
@[simp] theorem State.setBuf_interval (s : State) (b : Fin 4) (p : Buffer) : (s.setBuf b p).interval = s.interval := rfl
@[simp] theorem State.setBuf_intervalValid (s : State) (b : Fin 4) (p : Buffer) : (s.setBuf b p).intervalValid = s.intervalValid := rfl
@[simp] theorem State.setBuf_winSize (s : State) (b : Fin 4) (p : Buffer) : (s.setBuf b p).winSize = s.winSize := rfl
@[simp] theorem State.setBuf_winOffset (s : State) (b : Fin 4) (p : Buffer) : (s.setBuf b p).winOffset = s.winOffset := rfl
@[simp] theorem State.setBuf_evcnt (s : State) (b : Fin 4) (p : Buffer) : (s.setBuf b p).evcnt = s.evcnt := rfl
@[simp] theorem State.setBuf_lastPktTs (s : State) (b : Fin 4) (p : Buffer) : (s.setBuf b p).lastPktTs = s.lastPktTs := rfl
@[simp] theorem State.setBuf_epochTs (s : State) (b : Fin 4) (p : Buffer) : (s.setBuf b p).epochTs = s.epochTs := rfl
@[simp] theorem State.setBuf_updPending (s : State) (b : Fin 4) (p : Buffer) : (s.setBuf b p).updPending = s.updPending := rfl
@[simp] theorem State.setBuf_updWinSize (s : State) (b : Fin 4) (p : Buffer) : (s.setBuf b p).updWinSize = s.updWinSize := rfl
@[simp] theorem State.setBuf_updWinOffset (s : State) (b : Fin 4) (p : Buffer) : (s.setBuf b p).updWinOffset = s.updWinOffset := rfl
@[simp] theorem State.setBuf_updInterval (s : State) (b : Fin 4) (p : Buffer) : (s.setBuf b p).updInterval = s.updInterval := rfl
@[simp] theorem State.setBuf_updInstant (s : State) (b : Fin 4) (p : Buffer) : (s.setBuf b p).updInstant = s.updInstant := rfl
@[simp] theorem State.setBuf_hiSmallest (s : State) (b : Fin 4) (p : Buffer) : (s.setBuf b p).hiSmallest = s.hiSmallest := rfl
@[simp] theorem State.setBuf_hiMatch (s : State) (b : Fin 4) (p : Buffer) : (s.setBuf b p).hiMatch = s.hiMatch := rfl
@[simp] theorem State.setBuf_hiEst (s : State) (b : Fin 4) (p : Buffer) : (s.setBuf b p).hiEst = s.hiEst := rfl
@[simp] theorem State.setBuf_hiPrevTs (s : State) (b : Fin 4) (p : Buffer) : (s.setBuf b p).hiPrevTs = s.hiPrevTs := rfl
@[simp] theorem State.setBuf_hpFirstTs (s : State) (b : Fin 4) (p : Buffer) : (s.setBuf b p).hpFirstTs = s.hpFirstTs := rfl
@[simp] theorem State.setBuf_hpFirstValid (s : State) (b : Fin 4) (p : Buffer) : (s.setBuf b p).hpFirstValid = s.hpFirstValid := rfl
@[simp] theorem State.setBuf_hpRetries (s : State) (b : Fin 4) (p : Buffer) : (s.setBuf b p).hpRetries = s.hpRetries := rfl
@[simp] theorem State.setBuf_filtAddr (s : State) (b : Fin 4) (p : Buffer) : (s.setBuf b p).filtAddr = s.filtAddr := rfl
@[simp] theorem State.setBuf_filtMask (s : State) (b : Fin 4) (p : Buffer) : (s.setBuf b p).filtMask = s.filtMask := rfl
@[simp] theorem State.setBuf_discTimeout (s : State) (b : Fin 4) (p : Buffer) : (s.setBuf b p).discTimeout = s.discTimeout := rfl
@[simp] theorem State.setBuf_recovTimeout (s : State) (b : Fin 4) (p : Buffer) : (s.setBuf b p).recovTimeout = s.recovTimeout := rfl
@[simp] theorem State.setBuf_connTimeout (s : State) (b : Fin 4) (p : Buffer) : (s.setBuf b p).connTimeout = s.connTimeout := rfl
@[simp] theorem State.setBuf_ac (s : State) (b : Fin 4) (p : Buffer) : (s.setBuf b p).ac = s.ac := rfl
@[simp] theorem State.setBuf_pb (s : State) (b : Fin 4) (p : Buffer) : (s.setBuf b p).pb = s.pb.set b p := rfl
@[simp] theorem State.setBuf_pbq (s : State) (b : Fin 4) (p : Buffer) : (s.setBuf b p).pbq = s.pbq := rfl
@[simp] theorem State.setBuf_discards (s : State) (b : Fin 4) (p : Buffer) : (s.setBuf b p).discards = s.discards := rfl
@[simp] theorem State.setBuf_rtPending (s : State) (b : Fin 4) (p : Buffer) : (s.setBuf b p).rtPending = s.rtPending := rfl
@[simp] theorem State.setBuf_rtChan (s : State) (b : Fin 4) (p : Buffer) : (s.setBuf b p).rtChan = s.rtChan := rfl
@[simp] theorem State.setBuf_whCap (s : State) (b : Fin 4) (p : Buffer) : (s.setBuf b p).whCap = s.whCap := rfl
@[simp] theorem State.setBuf_whProc (s : State) (b : Fin 4) (p : Buffer) : (s.setBuf b p).whProc = s.whProc := rfl
@[simp] theorem State.setBuf_capPort (s : State) (b : Fin 4) (p : Buffer) : (s.setBuf b p).capPort = s.capPort := rfl
@[simp] theorem State.setBuf_procPort (s : State) (b : Fin 4) (p : Buffer) : (s.setBuf b p).procPort = s.procPort := rfl
@[simp] theorem State.setBuf_agent (s : State) (b : Fin 4) (p : Buffer) : (s.setBuf b p).agent = s.agent := rfl
@[simp] theorem State.setBuf_arbPlan (s : State) (b : Fin 4) (p : Buffer) : (s.setBuf b p).arbPlan = s.arbPlan := rfl
@[simp] theorem State.setBuf_arbSeq (s : State) (b : Fin 4) (p : Buffer) : (s.setBuf b p).arbSeq = s.arbSeq := rfl
@[simp] theorem State.setBuf_params (s : State) (b : Fin 4) (p : Buffer) : (s.setBuf b p).params = s.params := rfl

/-! ### `State.setTag` -/

@[simp] theorem State.setTag_mode (s : State) (b : Fin 4) (t : Tag) : (s.setTag b t).mode = s.mode := rfl
@[simp] theorem State.setTag_stage (s : State) (b : Fin 4) (t : Tag) : (s.setTag b t).stage = s.stage := rfl
@[simp] theorem State.setTag_lstate (s : State) (b : Fin 4) (t : Tag) : (s.setTag b t).lstate = s.lstate := rfl
@[simp] theorem State.setTag_stageTs (s : State) (b : Fin 4) (t : Tag) : (s.setTag b t).stageTs = s.stageTs := rfl
@[simp] theorem State.setTag_stageTsValid (s : State) (b : Fin 4) (t : Tag) : (s.setTag b t).stageTsValid = s.stageTsValid := rfl
@[simp] theorem State.setTag_aa (s : State) (b : Fin 4) (t : Tag) : (s.setTag b t).aa = s.aa := rfl
@[simp] theorem State.setTag_aaValid (s : State) (b : Fin 4) (t : Tag) : (s.setTag b t).aaValid = s.aaValid := rfl
@[simp] theorem State.setTag_crcLfsr (s : State) (b : Fin 4) (t : Tag) : (s.setTag b t).crcLfsr = s.crcLfsr := rfl
@[simp] theorem State.setTag_crcRaw (s : State) (b : Fin 4) (t : Tag) : (s.setTag b t).crcRaw = s.crcRaw := rfl
@[simp] theorem State.setTag_crcVerified (s : State) (b : Fin 4) (t : Tag) : (s.setTag b t).crcVerified = s.crcVerified := rfl
@[simp] theorem State.setTag_crcVerify (s : State) (b : Fin 4) (t : Tag) : (s.setTag b t).crcVerify = s.crcVerify := rfl
@[simp] theorem State.setTag_hopinc (s : State) (b : Fin 4) (t : Tag) : (s.setTag b t).hopinc = s.hopinc := rfl
@[simp] theorem State.setTag_hopincValid (s : State) (b : Fin 4) (t : Tag) : (s.setTag b t).hopincValid = s.hopincValid := rfl
@[simp] theorem State.setTag_chan (s : State) (b : Fin 4) (t : Tag) : (s.setTag b t).chan = s.chan := rfl
@[simp] theorem State.setTag_discChan (s : State) (b : Fin 4) (t : Tag) : (s.setTag b t).discChan = s.discChan := rfl
@[simp] theorem State.setTag_interval (s : State) (b : Fin 4) (t : Tag) : (s.setTag b t).interval = s.interval := rfl
@[simp] theorem State.setTag_intervalValid (s : State) (b : Fin 4) (t : Tag) : (s.setTag b t).intervalValid = s.intervalValid := rfl
@[simp] theorem State.setTag_winSize (s : State) (b : Fin 4) (t : Tag) : (s.setTag b t).winSize = s.winSize := rfl
@[simp] theorem State.setTag_winOffset (s : State) (b : Fin 4) (t : Tag) : (s.setTag b t).winOffset = s.winOffset := rfl
@[simp] theorem State.setTag_evcnt (s : State) (b : Fin 4) (t : Tag) : (s.setTag b t).evcnt = s.evcnt := rfl
@[simp] theorem State.setTag_lastPktTs (s : State) (b : Fin 4) (t : Tag) : (s.setTag b t).lastPktTs = s.lastPktTs := rfl
@[simp] theorem State.setTag_epochTs (s : State) (b : Fin 4) (t : Tag) : (s.setTag b t).epochTs = s.epochTs := rfl
@[simp] theorem State.setTag_updPending (s : State) (b : Fin 4) (t : Tag) : (s.setTag b t).updPending = s.updPending := rfl
@[simp] theorem State.setTag_updWinSize (s : State) (b : Fin 4) (t : Tag) : (s.setTag b t).updWinSize = s.updWinSize := rfl
@[simp] theorem State.setTag_updWinOffset (s : State) (b : Fin 4) (t : Tag) : (s.setTag b t).updWinOffset = s.updWinOffset := rfl
@[simp] theorem State.setTag_updInterval (s : State) (b : Fin 4) (t : Tag) : (s.setTag b t).updInterval = s.updInterval := rfl
@[simp] theorem State.setTag_updInstant (s : State) (b : Fin 4) (t : Tag) : (s.setTag b t).updInstant = s.updInstant := rfl
@[simp] theorem State.setTag_hiSmallest (s : State) (b : Fin 4) (t : Tag) : (s.setTag b t).hiSmallest = s.hiSmallest := rfl
@[simp] theorem State.setTag_hiMatch (s : State) (b : Fin 4) (t : Tag) : (s.setTag b t).hiMatch = s.hiMatch := rfl
@[simp] theorem State.setTag_hiEst (s : State) (b : Fin 4) (t : Tag) : (s.setTag b t).hiEst = s.hiEst := rfl
@[simp] theorem State.setTag_hiPrevTs (s : State) (b : Fin 4) (t : Tag) : (s.setTag b t).hiPrevTs = s.hiPrevTs := rfl
@[simp] theorem State.setTag_hpFirstTs (s : State) (b : Fin 4) (t : Tag) : (s.setTag b t).hpFirstTs = s.hpFirstTs := rfl
@[simp] theorem State.setTag_hpFirstValid (s : State) (b : Fin 4) (t : Tag) : (s.setTag b t).hpFirstValid = s.hpFirstValid := rfl
@[simp] theorem State.setTag_hpRetries (s : State) (b : Fin 4) (t : Tag) : (s.setTag b t).hpRetries = s.hpRetries := rfl
@[simp] theorem State.setTag_filtAddr (s : State) (b : Fin 4) (t : Tag) : (s.setTag b t).filtAddr = s.filtAddr := rfl
@[simp] theorem State.setTag_filtMask (s : State) (b : Fin 4) (t : Tag) : (s.setTag b t).filtMask = s.filtMask := rfl
@[simp] theorem State.setTag_discTimeout (s : State) (b : Fin 4) (t : Tag) : (s.setTag b t).discTimeout = s.discTimeout := rfl
@[simp] theorem State.setTag_recovTimeout (s : State) (b : Fin 4) (t : Tag) : (s.setTag b t).recovTimeout = s.recovTimeout := rfl
@[simp] theorem State.setTag_connTimeout (s : State) (b : Fin 4) (t : Tag) : (s.setTag b t).connTimeout = s.connTimeout := rfl
@[simp] theorem State.setTag_ac (s : State) (b : Fin 4) (t : Tag) : (s.setTag b t).ac = s.ac := rfl
@[simp] theorem State.setTag_pbq (s : State) (b : Fin 4) (t : Tag) : (s.setTag b t).pbq = s.pbq := rfl
@[simp] theorem State.setTag_discards (s : State) (b : Fin 4) (t : Tag) : (s.setTag b t).discards = s.discards := rfl
@[simp] theorem State.setTag_rtPending (s : State) (b : Fin 4) (t : Tag) : (s.setTag b t).rtPending = s.rtPending := rfl
@[simp] theorem State.setTag_rtChan (s : State) (b : Fin 4) (t : Tag) : (s.setTag b t).rtChan = s.rtChan := rfl
@[simp] theorem State.setTag_whCap (s : State) (b : Fin 4) (t : Tag) : (s.setTag b t).whCap = s.whCap := rfl
@[simp] theorem State.setTag_whProc (s : State) (b : Fin 4) (t : Tag) : (s.setTag b t).whProc = s.whProc := rfl
@[simp] theorem State.setTag_capPort (s : State) (b : Fin 4) (t : Tag) : (s.setTag b t).capPort = s.capPort := rfl
@[simp] theorem State.setTag_procPort (s : State) (b : Fin 4) (t : Tag) : (s.setTag b t).procPort = s.procPort := rfl
@[simp] theorem State.setTag_agent (s : State) (b : Fin 4) (t : Tag) : (s.setTag b t).agent = s.agent := rfl
@[simp] theorem State.setTag_arbPlan (s : State) (b : Fin 4) (t : Tag) : (s.setTag b t).arbPlan = s.arbPlan := rfl
@[simp] theorem State.setTag_arbSeq (s : State) (b : Fin 4) (t : Tag) : (s.setTag b t).arbSeq = s.arbSeq := rfl
@[simp] theorem State.setTag_params (s : State) (b : Fin 4) (t : Tag) : (s.setTag b t).params = s.params := rfl

/-! ### `State.setWhc` -/

@[simp] theorem State.setWhc_mode (s : State) (c : WhCtx) : (s.setWhc c).mode = s.mode := rfl
@[simp] theorem State.setWhc_stage (s : State) (c : WhCtx) : (s.setWhc c).stage = s.stage := rfl
@[simp] theorem State.setWhc_lstate (s : State) (c : WhCtx) : (s.setWhc c).lstate = s.lstate := rfl
@[simp] theorem State.setWhc_stageTs (s : State) (c : WhCtx) : (s.setWhc c).stageTs = s.stageTs := rfl
@[simp] theorem State.setWhc_stageTsValid (s : State) (c : WhCtx) : (s.setWhc c).stageTsValid = s.stageTsValid := rfl
@[simp] theorem State.setWhc_aa (s : State) (c : WhCtx) : (s.setWhc c).aa = s.aa := rfl
@[simp] theorem State.setWhc_aaValid (s : State) (c : WhCtx) : (s.setWhc c).aaValid = s.aaValid := rfl
@[simp] theorem State.setWhc_crcLfsr (s : State) (c : WhCtx) : (s.setWhc c).crcLfsr = s.crcLfsr := rfl
@[simp] theorem State.setWhc_crcRaw (s : State) (c : WhCtx) : (s.setWhc c).crcRaw = s.crcRaw := rfl
@[simp] theorem State.setWhc_crcVerified (s : State) (c : WhCtx) : (s.setWhc c).crcVerified = s.crcVerified := rfl
@[simp] theorem State.setWhc_crcVerify (s : State) (c : WhCtx) : (s.setWhc c).crcVerify = s.crcVerify := rfl
@[simp] theorem State.setWhc_hopinc (s : State) (c : WhCtx) : (s.setWhc c).hopinc = s.hopinc := rfl
@[simp] theorem State.setWhc_hopincValid (s : State) (c : WhCtx) : (s.setWhc c).hopincValid = s.hopincValid := rfl
@[simp] theorem State.setWhc_chan (s : State) (c : WhCtx) : (s.setWhc c).chan = s.chan := rfl
@[simp] theorem State.setWhc_discChan (s : State) (c : WhCtx) : (s.setWhc c).discChan = s.discChan := rfl
@[simp] theorem State.setWhc_interval (s : State) (c : WhCtx) : (s.setWhc c).interval = s.interval := rfl
@[simp] theorem State.setWhc_intervalValid (s : State) (c : WhCtx) : (s.setWhc c).intervalValid = s.intervalValid := rfl
@[simp] theorem State.setWhc_winSize (s : State) (c : WhCtx) : (s.setWhc c).winSize = s.winSize := rfl
@[simp] theorem State.setWhc_winOffset (s : State) (c : WhCtx) : (s.setWhc c).winOffset = s.winOffset := rfl
@[simp] theorem State.setWhc_evcnt (s : State) (c : WhCtx) : (s.setWhc c).evcnt = s.evcnt := rfl
@[simp] theorem State.setWhc_lastPktTs (s : State) (c : WhCtx) : (s.setWhc c).lastPktTs = s.lastPktTs := rfl
@[simp] theorem State.setWhc_epochTs (s : State) (c : WhCtx) : (s.setWhc c).epochTs = s.epochTs := rfl
@[simp] theorem State.setWhc_updPending (s : State) (c : WhCtx) : (s.setWhc c).updPending = s.updPending := rfl
@[simp] theorem State.setWhc_updWinSize (s : State) (c : WhCtx) : (s.setWhc c).updWinSize = s.updWinSize := rfl
@[simp] theorem State.setWhc_updWinOffset (s : State) (c : WhCtx) : (s.setWhc c).updWinOffset = s.updWinOffset := rfl
@[simp] theorem State.setWhc_updInterval (s : State) (c : WhCtx) : (s.setWhc c).updInterval = s.updInterval := rfl
@[simp] theorem State.setWhc_updInstant (s : State) (c : WhCtx) : (s.setWhc c).updInstant = s.updInstant := rfl
@[simp] theorem State.setWhc_hiSmallest (s : State) (c : WhCtx) : (s.setWhc c).hiSmallest = s.hiSmallest := rfl
@[simp] theorem State.setWhc_hiMatch (s : State) (c : WhCtx) : (s.setWhc c).hiMatch = s.hiMatch := rfl
@[simp] theorem State.setWhc_hiEst (s : State) (c : WhCtx) : (s.setWhc c).hiEst = s.hiEst := rfl
@[simp] theorem State.setWhc_hiPrevTs (s : State) (c : WhCtx) : (s.setWhc c).hiPrevTs = s.hiPrevTs := rfl
@[simp] theorem State.setWhc_hpFirstTs (s : State) (c : WhCtx) : (s.setWhc c).hpFirstTs = s.hpFirstTs := rfl
@[simp] theorem State.setWhc_hpFirstValid (s : State) (c : WhCtx) : (s.setWhc c).hpFirstValid = s.hpFirstValid := rfl
@[simp] theorem State.setWhc_hpRetries (s : State) (c : WhCtx) : (s.setWhc c).hpRetries = s.hpRetries := rfl
@[simp] theorem State.setWhc_filtAddr (s : State) (c : WhCtx) : (s.setWhc c).filtAddr = s.filtAddr := rfl
@[simp] theorem State.setWhc_filtMask (s : State) (c : WhCtx) : (s.setWhc c).filtMask = s.filtMask := rfl
@[simp] theorem State.setWhc_discTimeout (s : State) (c : WhCtx) : (s.setWhc c).discTimeout = s.discTimeout := rfl
@[simp] theorem State.setWhc_recovTimeout (s : State) (c : WhCtx) : (s.setWhc c).recovTimeout = s.recovTimeout := rfl
@[simp] theorem State.setWhc_connTimeout (s : State) (c : WhCtx) : (s.setWhc c).connTimeout = s.connTimeout := rfl
@[simp] theorem State.setWhc_ac (s : State) (c : WhCtx) : (s.setWhc c).ac = s.ac := rfl
@[simp] theorem State.setWhc_pb (s : State) (c : WhCtx) : (s.setWhc c).pb = s.pb := rfl
@[simp] theorem State.setWhc_pbq (s : State) (c : WhCtx) : (s.setWhc c).pbq = s.pbq := rfl
@[simp] theorem State.setWhc_discards (s : State) (c : WhCtx) : (s.setWhc c).discards = s.discards := rfl
@[simp] theorem State.setWhc_rtPending (s : State) (c : WhCtx) : (s.setWhc c).rtPending = s.rtPending := rfl
@[simp] theorem State.setWhc_rtChan (s : State) (c : WhCtx) : (s.setWhc c).rtChan = s.rtChan := rfl
@[simp] theorem State.setWhc_capPort (s : State) (c : WhCtx) : (s.setWhc c).capPort = s.capPort := rfl
@[simp] theorem State.setWhc_procPort (s : State) (c : WhCtx) : (s.setWhc c).procPort = s.procPort := rfl
@[simp] theorem State.setWhc_agent (s : State) (c : WhCtx) : (s.setWhc c).agent = s.agent := rfl
@[simp] theorem State.setWhc_arbPlan (s : State) (c : WhCtx) : (s.setWhc c).arbPlan = s.arbPlan := rfl
@[simp] theorem State.setWhc_arbSeq (s : State) (c : WhCtx) : (s.setWhc c).arbSeq = s.arbSeq := rfl
@[simp] theorem State.setWhc_params (s : State) (c : WhCtx) : (s.setWhc c).params = s.params := rfl

/-! ### `State.setSlot` -/

@[simp] theorem State.setSlot_mode (s : State) (j : Fin 32) (e : AcSlot) : (s.setSlot j e).mode = s.mode := rfl
@[simp] theorem State.setSlot_stage (s : State) (j : Fin 32) (e : AcSlot) : (s.setSlot j e).stage = s.stage := rfl
@[simp] theorem State.setSlot_lstate (s : State) (j : Fin 32) (e : AcSlot) : (s.setSlot j e).lstate = s.lstate := rfl
@[simp] theorem State.setSlot_stageTs (s : State) (j : Fin 32) (e : AcSlot) : (s.setSlot j e).stageTs = s.stageTs := rfl
@[simp] theorem State.setSlot_stageTsValid (s : State) (j : Fin 32) (e : AcSlot) : (s.setSlot j e).stageTsValid = s.stageTsValid := rfl
@[simp] theorem State.setSlot_aa (s : State) (j : Fin 32) (e : AcSlot) : (s.setSlot j e).aa = s.aa := rfl
@[simp] theorem State.setSlot_aaValid (s : State) (j : Fin 32) (e : AcSlot) : (s.setSlot j e).aaValid = s.aaValid := rfl
@[simp] theorem State.setSlot_crcLfsr (s : State) (j : Fin 32) (e : AcSlot) : (s.setSlot j e).crcLfsr = s.crcLfsr := rfl
@[simp] theorem State.setSlot_crcRaw (s : State) (j : Fin 32) (e : AcSlot) : (s.setSlot j e).crcRaw = s.crcRaw := rfl
@[simp] theorem State.setSlot_crcVerified (s : State) (j : Fin 32) (e : AcSlot) : (s.setSlot j e).crcVerified = s.crcVerified := rfl
@[simp] theorem State.setSlot_crcVerify (s : State) (j : Fin 32) (e : AcSlot) : (s.setSlot j e).crcVerify = s.crcVerify := rfl
@[simp] theorem State.setSlot_hopinc (s : State) (j : Fin 32) (e : AcSlot) : (s.setSlot j e).hopinc = s.hopinc := rfl
@[simp] theorem State.setSlot_hopincValid (s : State) (j : Fin 32) (e : AcSlot) : (s.setSlot j e).hopincValid = s.hopincValid := rfl
@[simp] theorem State.setSlot_chan (s : State) (j : Fin 32) (e : AcSlot) : (s.setSlot j e).chan = s.chan := rfl
@[simp] theorem State.setSlot_discChan (s : State) (j : Fin 32) (e : AcSlot) : (s.setSlot j e).discChan = s.discChan := rfl
@[simp] theorem State.setSlot_interval (s : State) (j : Fin 32) (e : AcSlot) : (s.setSlot j e).interval = s.interval := rfl
@[simp] theorem State.setSlot_intervalValid (s : State) (j : Fin 32) (e : AcSlot) : (s.setSlot j e).intervalValid = s.intervalValid := rfl
@[simp] theorem State.setSlot_winSize (s : State) (j : Fin 32) (e : AcSlot) : (s.setSlot j e).winSize = s.winSize := rfl
@[simp] theorem State.setSlot_winOffset (s : State) (j : Fin 32) (e : AcSlot) : (s.setSlot j e).winOffset = s.winOffset := rfl
@[simp] theorem State.setSlot_evcnt (s : State) (j : Fin 32) (e : AcSlot) : (s.setSlot j e).evcnt = s.evcnt := rfl
@[simp] theorem State.setSlot_lastPktTs (s : State) (j : Fin 32) (e : AcSlot) : (s.setSlot j e).lastPktTs = s.lastPktTs := rfl
@[simp] theorem State.setSlot_epochTs (s : State) (j : Fin 32) (e : AcSlot) : (s.setSlot j e).epochTs = s.epochTs := rfl
@[simp] theorem State.setSlot_updPending (s : State) (j : Fin 32) (e : AcSlot) : (s.setSlot j e).updPending = s.updPending := rfl
@[simp] theorem State.setSlot_updWinSize (s : State) (j : Fin 32) (e : AcSlot) : (s.setSlot j e).updWinSize = s.updWinSize := rfl
@[simp] theorem State.setSlot_updWinOffset (s : State) (j : Fin 32) (e : AcSlot) : (s.setSlot j e).updWinOffset = s.updWinOffset := rfl
@[simp] theorem State.setSlot_updInterval (s : State) (j : Fin 32) (e : AcSlot) : (s.setSlot j e).updInterval = s.updInterval := rfl
@[simp] theorem State.setSlot_updInstant (s : State) (j : Fin 32) (e : AcSlot) : (s.setSlot j e).updInstant = s.updInstant := rfl
@[simp] theorem State.setSlot_hiSmallest (s : State) (j : Fin 32) (e : AcSlot) : (s.setSlot j e).hiSmallest = s.hiSmallest := rfl
@[simp] theorem State.setSlot_hiMatch (s : State) (j : Fin 32) (e : AcSlot) : (s.setSlot j e).hiMatch = s.hiMatch := rfl
@[simp] theorem State.setSlot_hiEst (s : State) (j : Fin 32) (e : AcSlot) : (s.setSlot j e).hiEst = s.hiEst := rfl
@[simp] theorem State.setSlot_hiPrevTs (s : State) (j : Fin 32) (e : AcSlot) : (s.setSlot j e).hiPrevTs = s.hiPrevTs := rfl
@[simp] theorem State.setSlot_hpFirstTs (s : State) (j : Fin 32) (e : AcSlot) : (s.setSlot j e).hpFirstTs = s.hpFirstTs := rfl
@[simp] theorem State.setSlot_hpFirstValid (s : State) (j : Fin 32) (e : AcSlot) : (s.setSlot j e).hpFirstValid = s.hpFirstValid := rfl
@[simp] theorem State.setSlot_hpRetries (s : State) (j : Fin 32) (e : AcSlot) : (s.setSlot j e).hpRetries = s.hpRetries := rfl
@[simp] theorem State.setSlot_filtAddr (s : State) (j : Fin 32) (e : AcSlot) : (s.setSlot j e).filtAddr = s.filtAddr := rfl
@[simp] theorem State.setSlot_filtMask (s : State) (j : Fin 32) (e : AcSlot) : (s.setSlot j e).filtMask = s.filtMask := rfl
@[simp] theorem State.setSlot_discTimeout (s : State) (j : Fin 32) (e : AcSlot) : (s.setSlot j e).discTimeout = s.discTimeout := rfl
@[simp] theorem State.setSlot_recovTimeout (s : State) (j : Fin 32) (e : AcSlot) : (s.setSlot j e).recovTimeout = s.recovTimeout := rfl
@[simp] theorem State.setSlot_connTimeout (s : State) (j : Fin 32) (e : AcSlot) : (s.setSlot j e).connTimeout = s.connTimeout := rfl
@[simp] theorem State.setSlot_ac (s : State) (j : Fin 32) (e : AcSlot) : (s.setSlot j e).ac = s.ac.set j e := rfl
@[simp] theorem State.setSlot_pb (s : State) (j : Fin 32) (e : AcSlot) : (s.setSlot j e).pb = s.pb := rfl
@[simp] theorem State.setSlot_pbq (s : State) (j : Fin 32) (e : AcSlot) : (s.setSlot j e).pbq = s.pbq := rfl
@[simp] theorem State.setSlot_discards (s : State) (j : Fin 32) (e : AcSlot) : (s.setSlot j e).discards = s.discards := rfl
@[simp] theorem State.setSlot_rtPending (s : State) (j : Fin 32) (e : AcSlot) : (s.setSlot j e).rtPending = s.rtPending := rfl
@[simp] theorem State.setSlot_rtChan (s : State) (j : Fin 32) (e : AcSlot) : (s.setSlot j e).rtChan = s.rtChan := rfl
@[simp] theorem State.setSlot_whCap (s : State) (j : Fin 32) (e : AcSlot) : (s.setSlot j e).whCap = s.whCap := rfl
@[simp] theorem State.setSlot_whProc (s : State) (j : Fin 32) (e : AcSlot) : (s.setSlot j e).whProc = s.whProc := rfl
@[simp] theorem State.setSlot_capPort (s : State) (j : Fin 32) (e : AcSlot) : (s.setSlot j e).capPort = s.capPort := rfl
@[simp] theorem State.setSlot_procPort (s : State) (j : Fin 32) (e : AcSlot) : (s.setSlot j e).procPort = s.procPort := rfl
@[simp] theorem State.setSlot_agent (s : State) (j : Fin 32) (e : AcSlot) : (s.setSlot j e).agent = s.agent := rfl
@[simp] theorem State.setSlot_arbPlan (s : State) (j : Fin 32) (e : AcSlot) : (s.setSlot j e).arbPlan = s.arbPlan := rfl
@[simp] theorem State.setSlot_arbSeq (s : State) (j : Fin 32) (e : AcSlot) : (s.setSlot j e).arbSeq = s.arbSeq := rfl
@[simp] theorem State.setSlot_params (s : State) (j : Fin 32) (e : AcSlot) : (s.setSlot j e).params = s.params := rfl

/-! ### `State.clearCache` -/

@[simp] theorem State.clearCache_mode (s : State) : (s.clearCache).mode = s.mode := rfl
@[simp] theorem State.clearCache_stage (s : State) : (s.clearCache).stage = s.stage := rfl
@[simp] theorem State.clearCache_lstate (s : State) : (s.clearCache).lstate = s.lstate := rfl
@[simp] theorem State.clearCache_stageTs (s : State) : (s.clearCache).stageTs = s.stageTs := rfl
@[simp] theorem State.clearCache_stageTsValid (s : State) : (s.clearCache).stageTsValid = s.stageTsValid := rfl
@[simp] theorem State.clearCache_aa (s : State) : (s.clearCache).aa = s.aa := rfl
@[simp] theorem State.clearCache_aaValid (s : State) : (s.clearCache).aaValid = s.aaValid := rfl
@[simp] theorem State.clearCache_crcLfsr (s : State) : (s.clearCache).crcLfsr = s.crcLfsr := rfl
@[simp] theorem State.clearCache_crcRaw (s : State) : (s.clearCache).crcRaw = s.crcRaw := rfl
@[simp] theorem State.clearCache_crcVerified (s : State) : (s.clearCache).crcVerified = s.crcVerified := rfl
@[simp] theorem State.clearCache_crcVerify (s : State) : (s.clearCache).crcVerify = s.crcVerify := rfl
@[simp] theorem State.clearCache_hopinc (s : State) : (s.clearCache).hopinc = s.hopinc := rfl
@[simp] theorem State.clearCache_hopincValid (s : State) : (s.clearCache).hopincValid = s.hopincValid := rfl
@[simp] theorem State.clearCache_chan (s : State) : (s.clearCache).chan = s.chan := rfl
@[simp] theorem State.clearCache_discChan (s : State) : (s.clearCache).discChan = s.discChan := rfl
@[simp] theorem State.clearCache_interval (s : State) : (s.clearCache).interval = s.interval := rfl
@[simp] theorem State.clearCache_intervalValid (s : State) : (s.clearCache).intervalValid = s.intervalValid := rfl
@[simp] theorem State.clearCache_winSize (s : State) : (s.clearCache).winSize = s.winSize := rfl
@[simp] theorem State.clearCache_winOffset (s : State) : (s.clearCache).winOffset = s.winOffset := rfl
@[simp] theorem State.clearCache_evcnt (s : State) : (s.clearCache).evcnt = s.evcnt := rfl
@[simp] theorem State.clearCache_lastPktTs (s : State) : (s.clearCache).lastPktTs = s.lastPktTs := rfl
@[simp] theorem State.clearCache_epochTs (s : State) : (s.clearCache).epochTs = s.epochTs := rfl
@[simp] theorem State.clearCache_updPending (s : State) : (s.clearCache).updPending = s.updPending := rfl
@[simp] theorem State.clearCache_updWinSize (s : State) : (s.clearCache).updWinSize = s.updWinSize := rfl
@[simp] theorem State.clearCache_updWinOffset (s : State) : (s.clearCache).updWinOffset = s.updWinOffset := rfl
@[simp] theorem State.clearCache_updInterval (s : State) : (s.clearCache).updInterval = s.updInterval := rfl
@[simp] theorem State.clearCache_updInstant (s : State) : (s.clearCache).updInstant = s.updInstant := rfl
@[simp] theorem State.clearCache_hiSmallest (s : State) : (s.clearCache).hiSmallest = s.hiSmallest := rfl
@[simp] theorem State.clearCache_hiMatch (s : State) : (s.clearCache).hiMatch = s.hiMatch := rfl
@[simp] theorem State.clearCache_hiEst (s : State) : (s.clearCache).hiEst = s.hiEst := rfl
@[simp] theorem State.clearCache_hiPrevTs (s : State) : (s.clearCache).hiPrevTs = s.hiPrevTs := rfl
@[simp] theorem State.clearCache_hpFirstTs (s : State) : (s.clearCache).hpFirstTs = s.hpFirstTs := rfl
@[simp] theorem State.clearCache_hpFirstValid (s : State) : (s.clearCache).hpFirstValid = s.hpFirstValid := rfl
@[simp] theorem State.clearCache_hpRetries (s : State) : (s.clearCache).hpRetries = s.hpRetries := rfl
@[simp] theorem State.clearCache_filtAddr (s : State) : (s.clearCache).filtAddr = s.filtAddr := rfl
@[simp] theorem State.clearCache_filtMask (s : State) : (s.clearCache).filtMask = s.filtMask := rfl
@[simp] theorem State.clearCache_discTimeout (s : State) : (s.clearCache).discTimeout = s.discTimeout := rfl
@[simp] theorem State.clearCache_recovTimeout (s : State) : (s.clearCache).recovTimeout = s.recovTimeout := rfl
@[simp] theorem State.clearCache_connTimeout (s : State) : (s.clearCache).connTimeout = s.connTimeout := rfl
@[simp] theorem State.clearCache_pb (s : State) : (s.clearCache).pb = s.pb := rfl
@[simp] theorem State.clearCache_pbq (s : State) : (s.clearCache).pbq = s.pbq := rfl
@[simp] theorem State.clearCache_discards (s : State) : (s.clearCache).discards = s.discards := rfl
@[simp] theorem State.clearCache_rtPending (s : State) : (s.clearCache).rtPending = s.rtPending := rfl
@[simp] theorem State.clearCache_rtChan (s : State) : (s.clearCache).rtChan = s.rtChan := rfl
@[simp] theorem State.clearCache_whCap (s : State) : (s.clearCache).whCap = s.whCap := rfl
@[simp] theorem State.clearCache_whProc (s : State) : (s.clearCache).whProc = s.whProc := rfl
@[simp] theorem State.clearCache_capPort (s : State) : (s.clearCache).capPort = s.capPort := rfl
@[simp] theorem State.clearCache_procPort (s : State) : (s.clearCache).procPort = s.procPort := rfl
@[simp] theorem State.clearCache_agent (s : State) : (s.clearCache).agent = s.agent := rfl
@[simp] theorem State.clearCache_arbPlan (s : State) : (s.clearCache).arbPlan = s.arbPlan := rfl
@[simp] theorem State.clearCache_arbSeq (s : State) : (s.clearCache).arbSeq = s.arbSeq := rfl
@[simp] theorem State.clearCache_params (s : State) : (s.clearCache).params = s.params := rfl

/-! ### `State.tune` -/

@[simp] theorem State.tune_mode (s : State) (c : Byte) : (s.tune c).mode = s.mode := rfl
@[simp] theorem State.tune_stage (s : State) (c : Byte) : (s.tune c).stage = s.stage := rfl
@[simp] theorem State.tune_lstate (s : State) (c : Byte) : (s.tune c).lstate = s.lstate := rfl
@[simp] theorem State.tune_stageTs (s : State) (c : Byte) : (s.tune c).stageTs = s.stageTs := rfl
@[simp] theorem State.tune_stageTsValid (s : State) (c : Byte) : (s.tune c).stageTsValid = s.stageTsValid := rfl
@[simp] theorem State.tune_aa (s : State) (c : Byte) : (s.tune c).aa = s.aa := rfl
@[simp] theorem State.tune_aaValid (s : State) (c : Byte) : (s.tune c).aaValid = s.aaValid := rfl
@[simp] theorem State.tune_crcLfsr (s : State) (c : Byte) : (s.tune c).crcLfsr = s.crcLfsr := rfl
@[simp] theorem State.tune_crcRaw (s : State) (c : Byte) : (s.tune c).crcRaw = s.crcRaw := rfl
@[simp] theorem State.tune_crcVerified (s : State) (c : Byte) : (s.tune c).crcVerified = s.crcVerified := rfl
@[simp] theorem State.tune_crcVerify (s : State) (c : Byte) : (s.tune c).crcVerify = s.crcVerify := rfl
@[simp] theorem State.tune_hopinc (s : State) (c : Byte) : (s.tune c).hopinc = s.hopinc := rfl
@[simp] theorem State.tune_hopincValid (s : State) (c : Byte) : (s.tune c).hopincValid = s.hopincValid := rfl
@[simp] theorem State.tune_chan (s : State) (c : Byte) : (s.tune c).chan = c := rfl
@[simp] theorem State.tune_discChan (s : State) (c : Byte) : (s.tune c).discChan = s.discChan := rfl
@[simp] theorem State.tune_interval (s : State) (c : Byte) : (s.tune c).interval = s.interval := rfl
@[simp] theorem State.tune_intervalValid (s : State) (c : Byte) : (s.tune c).intervalValid = s.intervalValid := rfl
@[simp] theorem State.tune_winSize (s : State) (c : Byte) : (s.tune c).winSize = s.winSize := rfl
@[simp] theorem State.tune_winOffset (s : State) (c : Byte) : (s.tune c).winOffset = s.winOffset := rfl
@[simp] theorem State.tune_evcnt (s : State) (c : Byte) : (s.tune c).evcnt = s.evcnt := rfl
@[simp] theorem State.tune_lastPktTs (s : State) (c : Byte) : (s.tune c).lastPktTs = s.lastPktTs := rfl
@[simp] theorem State.tune_epochTs (s : State) (c : Byte) : (s.tune c).epochTs = s.epochTs := rfl
@[simp] theorem State.tune_updPending (s : State) (c : Byte) : (s.tune c).updPending = s.updPending := rfl
@[simp] theorem State.tune_updWinSize (s : State) (c : Byte) : (s.tune c).updWinSize = s.updWinSize := rfl
@[simp] theorem State.tune_updWinOffset (s : State) (c : Byte) : (s.tune c).updWinOffset = s.updWinOffset := rfl
@[simp] theorem State.tune_updInterval (s : State) (c : Byte) : (s.tune c).updInterval = s.updInterval := rfl
@[simp] theorem State.tune_updInstant (s : State) (c : Byte) : (s.tune c).updInstant = s.updInstant := rfl
@[simp] theorem State.tune_hiSmallest (s : State) (c : Byte) : (s.tune c).hiSmallest = s.hiSmallest := rfl
@[simp] theorem State.tune_hiMatch (s : State) (c : Byte) : (s.tune c).hiMatch = s.hiMatch := rfl
@[simp] theorem State.tune_hiEst (s : State) (c : Byte) : (s.tune c).hiEst = s.hiEst := rfl
@[simp] theorem State.tune_hiPrevTs (s : State) (c : Byte) : (s.tune c).hiPrevTs = s.hiPrevTs := rfl
@[simp] theorem State.tune_hpFirstTs (s : State) (c : Byte) : (s.tune c).hpFirstTs = s.hpFirstTs := rfl
@[simp] theorem State.tune_hpFirstValid (s : State) (c : Byte) : (s.tune c).hpFirstValid = s.hpFirstValid := rfl
@[simp] theorem State.tune_hpRetries (s : State) (c : Byte) : (s.tune c).hpRetries = s.hpRetries := rfl
@[simp] theorem State.tune_filtAddr (s : State) (c : Byte) : (s.tune c).filtAddr = s.filtAddr := rfl
@[simp] theorem State.tune_filtMask (s : State) (c : Byte) : (s.tune c).filtMask = s.filtMask := rfl
@[simp] theorem State.tune_discTimeout (s : State) (c : Byte) : (s.tune c).discTimeout = s.discTimeout := rfl
@[simp] theorem State.tune_recovTimeout (s : State) (c : Byte) : (s.tune c).recovTimeout = s.recovTimeout := rfl
@[simp] theorem State.tune_connTimeout (s : State) (c : Byte) : (s.tune c).connTimeout = s.connTimeout := rfl
@[simp] theorem State.tune_ac (s : State) (c : Byte) : (s.tune c).ac = s.ac := rfl
@[simp] theorem State.tune_pb (s : State) (c : Byte) : (s.tune c).pb = s.pb := rfl
@[simp] theorem State.tune_pbq (s : State) (c : Byte) : (s.tune c).pbq = s.pbq := rfl
@[simp] theorem State.tune_discards (s : State) (c : Byte) : (s.tune c).discards = s.discards := rfl
@[simp] theorem State.tune_rtPending (s : State) (c : Byte) : (s.tune c).rtPending = true := rfl
@[simp] theorem State.tune_rtChan (s : State) (c : Byte) : (s.tune c).rtChan = c := rfl
@[simp] theorem State.tune_whCap (s : State) (c : Byte) : (s.tune c).whCap = s.whCap := rfl
@[simp] theorem State.tune_whProc (s : State) (c : Byte) : (s.tune c).whProc = s.whProc := rfl
@[simp] theorem State.tune_capPort (s : State) (c : Byte) : (s.tune c).capPort = s.capPort := rfl
@[simp] theorem State.tune_procPort (s : State) (c : Byte) : (s.tune c).procPort = s.procPort := rfl
@[simp] theorem State.tune_agent (s : State) (c : Byte) : (s.tune c).agent = s.agent := rfl
@[simp] theorem State.tune_arbPlan (s : State) (c : Byte) : (s.tune c).arbPlan = s.arbPlan := rfl
@[simp] theorem State.tune_arbSeq (s : State) (c : Byte) : (s.tune c).arbSeq = s.arbSeq := rfl
@[simp] theorem State.tune_params (s : State) (c : Byte) : (s.tune c).params = s.params := rfl

/-! ### `State.tuneIfOther` -/

@[simp] theorem State.tuneIfOther_mode (s : State) (c : Byte) : (s.tuneIfOther c).mode = s.mode := rfl
@[simp] theorem State.tuneIfOther_stage (s : State) (c : Byte) : (s.tuneIfOther c).stage = s.stage := rfl
@[simp] theorem State.tuneIfOther_lstate (s : State) (c : Byte) : (s.tuneIfOther c).lstate = s.lstate := rfl
@[simp] theorem State.tuneIfOther_stageTs (s : State) (c : Byte) : (s.tuneIfOther c).stageTs = s.stageTs := rfl
@[simp] theorem State.tuneIfOther_stageTsValid (s : State) (c : Byte) : (s.tuneIfOther c).stageTsValid = s.stageTsValid := rfl
@[simp] theorem State.tuneIfOther_aa (s : State) (c : Byte) : (s.tuneIfOther c).aa = s.aa := rfl
@[simp] theorem State.tuneIfOther_aaValid (s : State) (c : Byte) : (s.tuneIfOther c).aaValid = s.aaValid := rfl
@[simp] theorem State.tuneIfOther_crcLfsr (s : State) (c : Byte) : (s.tuneIfOther c).crcLfsr = s.crcLfsr := rfl
@[simp] theorem State.tuneIfOther_crcRaw (s : State) (c : Byte) : (s.tuneIfOther c).crcRaw = s.crcRaw := rfl
@[simp] theorem State.tuneIfOther_crcVerified (s : State) (c : Byte) : (s.tuneIfOther c).crcVerified = s.crcVerified := rfl
@[simp] theorem State.tuneIfOther_crcVerify (s : State) (c : Byte) : (s.tuneIfOther c).crcVerify = s.crcVerify := rfl
@[simp] theorem State.tuneIfOther_hopinc (s : State) (c : Byte) : (s.tuneIfOther c).hopinc = s.hopinc := rfl
@[simp] theorem State.tuneIfOther_hopincValid (s : State) (c : Byte) : (s.tuneIfOther c).hopincValid = s.hopincValid := rfl
@[simp] theorem State.tuneIfOther_chan (s : State) (c : Byte) : (s.tuneIfOther c).chan = c := rfl
@[simp] theorem State.tuneIfOther_discChan (s : State) (c : Byte) : (s.tuneIfOther c).discChan = s.discChan := rfl
@[simp] theorem State.tuneIfOther_interval (s : State) (c : Byte) : (s.tuneIfOther c).interval = s.interval := rfl
@[simp] theorem State.tuneIfOther_intervalValid (s : State) (c : Byte) : (s.tuneIfOther c).intervalValid = s.intervalValid := rfl
@[simp] theorem State.tuneIfOther_winSize (s : State) (c : Byte) : (s.tuneIfOther c).winSize = s.winSize := rfl
@[simp] theorem State.tuneIfOther_winOffset (s : State) (c : Byte) : (s.tuneIfOther c).winOffset = s.winOffset := rfl
@[simp] theorem State.tuneIfOther_evcnt (s : State) (c : Byte) : (s.tuneIfOther c).evcnt = s.evcnt := rfl
@[simp] theorem State.tuneIfOther_lastPktTs (s : State) (c : Byte) : (s.tuneIfOther c).lastPktTs = s.lastPktTs := rfl
@[simp] theorem State.tuneIfOther_epochTs (s : State) (c : Byte) : (s.tuneIfOther c).epochTs = s.epochTs := rfl
@[simp] theorem State.tuneIfOther_updPending (s : State) (c : Byte) : (s.tuneIfOther c).updPending = s.updPending := rfl
@[simp] theorem State.tuneIfOther_updWinSize (s : State) (c : Byte) : (s.tuneIfOther c).updWinSize = s.updWinSize := rfl
@[simp] theorem State.tuneIfOther_updWinOffset (s : State) (c : Byte) : (s.tuneIfOther c).updWinOffset = s.updWinOffset := rfl
@[simp] theorem State.tuneIfOther_updInterval (s : State) (c : Byte) : (s.tuneIfOther c).updInterval = s.updInterval := rfl
@[simp] theorem State.tuneIfOther_updInstant (s : State) (c : Byte) : (s.tuneIfOther c).updInstant = s.updInstant := rfl
@[simp] theorem State.tuneIfOther_hiSmallest (s : State) (c : Byte) : (s.tuneIfOther c).hiSmallest = s.hiSmallest := rfl
@[simp] theorem State.tuneIfOther_hiMatch (s : State) (c : Byte) : (s.tuneIfOther c).hiMatch = s.hiMatch := rfl
@[simp] theorem State.tuneIfOther_hiEst (s : State) (c : Byte) : (s.tuneIfOther c).hiEst = s.hiEst := rfl
@[simp] theorem State.tuneIfOther_hiPrevTs (s : State) (c : Byte) : (s.tuneIfOther c).hiPrevTs = s.hiPrevTs := rfl
@[simp] theorem State.tuneIfOther_hpFirstTs (s : State) (c : Byte) : (s.tuneIfOther c).hpFirstTs = s.hpFirstTs := rfl
@[simp] theorem State.tuneIfOther_hpFirstValid (s : State) (c : Byte) : (s.tuneIfOther c).hpFirstValid = s.hpFirstValid := rfl
@[simp] theorem State.tuneIfOther_hpRetries (s : State) (c : Byte) : (s.tuneIfOther c).hpRetries = s.hpRetries := rfl
@[simp] theorem State.tuneIfOther_filtAddr (s : State) (c : Byte) : (s.tuneIfOther c).filtAddr = s.filtAddr := rfl
@[simp] theorem State.tuneIfOther_filtMask (s : State) (c : Byte) : (s.tuneIfOther c).filtMask = s.filtMask := rfl
@[simp] theorem State.tuneIfOther_discTimeout (s : State) (c : Byte) : (s.tuneIfOther c).discTimeout = s.discTimeout := rfl
@[simp] theorem State.tuneIfOther_recovTimeout (s : State) (c : Byte) : (s.tuneIfOther c).recovTimeout = s.recovTimeout := rfl
@[simp] theorem State.tuneIfOther_connTimeout (s : State) (c : Byte) : (s.tuneIfOther c).connTimeout = s.connTimeout := rfl
@[simp] theorem State.tuneIfOther_ac (s : State) (c : Byte) : (s.tuneIfOther c).ac = s.ac := rfl
@[simp] theorem State.tuneIfOther_pb (s : State) (c : Byte) : (s.tuneIfOther c).pb = s.pb := rfl
@[simp] theorem State.tuneIfOther_pbq (s : State) (c : Byte) : (s.tuneIfOther c).pbq = s.pbq := rfl
@[simp] theorem State.tuneIfOther_discards (s : State) (c : Byte) : (s.tuneIfOther c).discards = s.discards := rfl
@[simp] theorem State.tuneIfOther_whCap (s : State) (c : Byte) : (s.tuneIfOther c).whCap = s.whCap := rfl
@[simp] theorem State.tuneIfOther_whProc (s : State) (c : Byte) : (s.tuneIfOther c).whProc = s.whProc := rfl
@[simp] theorem State.tuneIfOther_capPort (s : State) (c : Byte) : (s.tuneIfOther c).capPort = s.capPort := rfl
@[simp] theorem State.tuneIfOther_procPort (s : State) (c : Byte) : (s.tuneIfOther c).procPort = s.procPort := rfl
@[simp] theorem State.tuneIfOther_agent (s : State) (c : Byte) : (s.tuneIfOther c).agent = s.agent := rfl
@[simp] theorem State.tuneIfOther_arbPlan (s : State) (c : Byte) : (s.tuneIfOther c).arbPlan = s.arbPlan := rfl
@[simp] theorem State.tuneIfOther_arbSeq (s : State) (c : Byte) : (s.tuneIfOther c).arbSeq = s.arbSeq := rfl
@[simp] theorem State.tuneIfOther_params (s : State) (c : Byte) : (s.tuneIfOther c).params = s.params := rfl

/-! ### `State.enter` -/

@[simp] theorem State.enter_mode (s : State) (m : Mode) (l : LState) (st : Stage) : (s.enter m l st).mode = m := rfl
@[simp] theorem State.enter_stage (s : State) (m : Mode) (l : LState) (st : Stage) : (s.enter m l st).stage = st := rfl
@[simp] theorem State.enter_lstate (s : State) (m : Mode) (l : LState) (st : Stage) : (s.enter m l st).lstate = l := rfl
@[simp] theorem State.enter_stageTs (s : State) (m : Mode) (l : LState) (st : Stage) : (s.enter m l st).stageTs = s.stageTs := rfl
@[simp] theorem State.enter_stageTsValid (s : State) (m : Mode) (l : LState) (st : Stage) : (s.enter m l st).stageTsValid = false := rfl
@[simp] theorem State.enter_aa (s : State) (m : Mode) (l : LState) (st : Stage) : (s.enter m l st).aa = s.aa := rfl
@[simp] theorem State.enter_aaValid (s : State) (m : Mode) (l : LState) (st : Stage) : (s.enter m l st).aaValid = s.aaValid := rfl
@[simp] theorem State.enter_crcLfsr (s : State) (m : Mode) (l : LState) (st : Stage) : (s.enter m l st).crcLfsr = s.crcLfsr := rfl
@[simp] theorem State.enter_crcRaw (s : State) (m : Mode) (l : LState) (st : Stage) : (s.enter m l st).crcRaw = s.crcRaw := rfl
@[simp] theorem State.enter_crcVerified (s : State) (m : Mode) (l : LState) (st : Stage) : (s.enter m l st).crcVerified = s.crcVerified := rfl
@[simp] theorem State.enter_crcVerify (s : State) (m : Mode) (l : LState) (st : Stage) : (s.enter m l st).crcVerify = s.crcVerify := rfl
@[simp] theorem State.enter_hopinc (s : State) (m : Mode) (l : LState) (st : Stage) : (s.enter m l st).hopinc = s.hopinc := rfl
@[simp] theorem State.enter_hopincValid (s : State) (m : Mode) (l : LState) (st : Stage) : (s.enter m l st).hopincValid = s.hopincValid := rfl
@[simp] theorem State.enter_chan (s : State) (m : Mode) (l : LState) (st : Stage) : (s.enter m l st).chan = s.chan := rfl
@[simp] theorem State.enter_discChan (s : State) (m : Mode) (l : LState) (st : Stage) : (s.enter m l st).discChan = s.discChan := rfl
@[simp] theorem State.enter_interval (s : State) (m : Mode) (l : LState) (st : Stage) : (s.enter m l st).interval = s.interval := rfl
@[simp] theorem State.enter_intervalValid (s : State) (m : Mode) (l : LState) (st : Stage) : (s.enter m l st).intervalValid = s.intervalValid := rfl
@[simp] theorem State.enter_winSize (s : State) (m : Mode) (l : LState) (st : Stage) : (s.enter m l st).winSize = s.winSize := rfl
@[simp] theorem State.enter_winOffset (s : State) (m : Mode) (l : LState) (st : Stage) : (s.enter m l st).winOffset = s.winOffset := rfl
@[simp] theorem State.enter_evcnt (s : State) (m : Mode) (l : LState) (st : Stage) : (s.enter m l st).evcnt = s.evcnt := rfl
@[simp] theorem State.enter_lastPktTs (s : State) (m : Mode) (l : LState) (st : Stage) : (s.enter m l st).lastPktTs = s.lastPktTs := rfl
@[simp] theorem State.enter_epochTs (s : State) (m : Mode) (l : LState) (st : Stage) : (s.enter m l st).epochTs = s.epochTs := rfl
@[simp] theorem State.enter_updPending (s : State) (m : Mode) (l : LState) (st : Stage) : (s.enter m l st).updPending = s.updPending := rfl
@[simp] theorem State.enter_updWinSize (s : State) (m : Mode) (l : LState) (st : Stage) : (s.enter m l st).updWinSize = s.updWinSize := rfl
@[simp] theorem State.enter_updWinOffset (s : State) (m : Mode) (l : LState) (st : Stage) : (s.enter m l st).updWinOffset = s.updWinOffset := rfl
@[simp] theorem State.enter_updInterval (s : State) (m : Mode) (l : LState) (st : Stage) : (s.enter m l st).updInterval = s.updInterval := rfl
@[simp] theorem State.enter_updInstant (s : State) (m : Mode) (l : LState) (st : Stage) : (s.enter m l st).updInstant = s.updInstant := rfl
@[simp] theorem State.enter_hiSmallest (s : State) (m : Mode) (l : LState) (st : Stage) : (s.enter m l st).hiSmallest = s.hiSmallest := rfl
@[simp] theorem State.enter_hiMatch (s : State) (m : Mode) (l : LState) (st : Stage) : (s.enter m l st).hiMatch = s.hiMatch := rfl
@[simp] theorem State.enter_hiEst (s : State) (m : Mode) (l : LState) (st : Stage) : (s.enter m l st).hiEst = s.hiEst := rfl
@[simp] theorem State.enter_hiPrevTs (s : State) (m : Mode) (l : LState) (st : Stage) : (s.enter m l st).hiPrevTs = s.hiPrevTs := rfl
@[simp] theorem State.enter_hpFirstTs (s : State) (m : Mode) (l : LState) (st : Stage) : (s.enter m l st).hpFirstTs = s.hpFirstTs := rfl
@[simp] theorem State.enter_hpFirstValid (s : State) (m : Mode) (l : LState) (st : Stage) : (s.enter m l st).hpFirstValid = s.hpFirstValid := rfl
@[simp] theorem State.enter_hpRetries (s : State) (m : Mode) (l : LState) (st : Stage) : (s.enter m l st).hpRetries = s.hpRetries := rfl
@[simp] theorem State.enter_filtAddr (s : State) (m : Mode) (l : LState) (st : Stage) : (s.enter m l st).filtAddr = s.filtAddr := rfl
@[simp] theorem State.enter_filtMask (s : State) (m : Mode) (l : LState) (st : Stage) : (s.enter m l st).filtMask = s.filtMask := rfl
@[simp] theorem State.enter_discTimeout (s : State) (m : Mode) (l : LState) (st : Stage) : (s.enter m l st).discTimeout = s.discTimeout := rfl
@[simp] theorem State.enter_recovTimeout (s : State) (m : Mode) (l : LState) (st : Stage) : (s.enter m l st).recovTimeout = s.recovTimeout := rfl
@[simp] theorem State.enter_connTimeout (s : State) (m : Mode) (l : LState) (st : Stage) : (s.enter m l st).connTimeout = s.connTimeout := rfl
@[simp] theorem State.enter_ac (s : State) (m : Mode) (l : LState) (st : Stage) : (s.enter m l st).ac = s.ac := rfl
@[simp] theorem State.enter_pb (s : State) (m : Mode) (l : LState) (st : Stage) : (s.enter m l st).pb = s.pb := rfl
@[simp] theorem State.enter_pbq (s : State) (m : Mode) (l : LState) (st : Stage) : (s.enter m l st).pbq = s.pbq := rfl
@[simp] theorem State.enter_discards (s : State) (m : Mode) (l : LState) (st : Stage) : (s.enter m l st).discards = s.discards := rfl
@[simp] theorem State.enter_rtPending (s : State) (m : Mode) (l : LState) (st : Stage) : (s.enter m l st).rtPending = s.rtPending := rfl
@[simp] theorem State.enter_rtChan (s : State) (m : Mode) (l : LState) (st : Stage) : (s.enter m l st).rtChan = s.rtChan := rfl
@[simp] theorem State.enter_whCap (s : State) (m : Mode) (l : LState) (st : Stage) : (s.enter m l st).whCap = s.whCap := rfl
@[simp] theorem State.enter_whProc (s : State) (m : Mode) (l : LState) (st : Stage) : (s.enter m l st).whProc = s.whProc := rfl
@[simp] theorem State.enter_capPort (s : State) (m : Mode) (l : LState) (st : Stage) : (s.enter m l st).capPort = s.capPort := rfl
@[simp] theorem State.enter_procPort (s : State) (m : Mode) (l : LState) (st : Stage) : (s.enter m l st).procPort = s.procPort := rfl
@[simp] theorem State.enter_agent (s : State) (m : Mode) (l : LState) (st : Stage) : (s.enter m l st).agent = s.agent := rfl
@[simp] theorem State.enter_arbPlan (s : State) (m : Mode) (l : LState) (st : Stage) : (s.enter m l st).arbPlan = s.arbPlan := rfl
@[simp] theorem State.enter_arbSeq (s : State) (m : Mode) (l : LState) (st : Stage) : (s.enter m l st).arbSeq = s.arbSeq := rfl
@[simp] theorem State.enter_params (s : State) (m : Mode) (l : LState) (st : Stage) : (s.enter m l st).params = s.params := rfl

/-! ### `State.forget` -/

@[simp] theorem State.forget_mode (s : State) : (s.forget).mode = s.mode := rfl
@[simp] theorem State.forget_stage (s : State) : (s.forget).stage = s.stage := rfl
@[simp] theorem State.forget_lstate (s : State) : (s.forget).lstate = s.lstate := rfl
@[simp] theorem State.forget_stageTs (s : State) : (s.forget).stageTs = s.stageTs := rfl
@[simp] theorem State.forget_stageTsValid (s : State) : (s.forget).stageTsValid = false := rfl
@[simp] theorem State.forget_aa (s : State) : (s.forget).aa = s.aa := rfl
@[simp] theorem State.forget_aaValid (s : State) : (s.forget).aaValid = false := rfl
@[simp] theorem State.forget_crcLfsr (s : State) : (s.forget).crcLfsr = s.crcLfsr := rfl
@[simp] theorem State.forget_crcRaw (s : State) : (s.forget).crcRaw = s.crcRaw := rfl
@[simp] theorem State.forget_crcVerified (s : State) : (s.forget).crcVerified = false := rfl
@[simp] theorem State.forget_crcVerify (s : State) : (s.forget).crcVerify = false := rfl
@[simp] theorem State.forget_hopinc (s : State) : (s.forget).hopinc = s.hopinc := rfl
@[simp] theorem State.forget_hopincValid (s : State) : (s.forget).hopincValid = false := rfl
@[simp] theorem State.forget_chan (s : State) : (s.forget).chan = s.chan := rfl
@[simp] theorem State.forget_discChan (s : State) : (s.forget).discChan = s.discChan := rfl
@[simp] theorem State.forget_interval (s : State) : (s.forget).interval = s.interval := rfl
@[simp] theorem State.forget_intervalValid (s : State) : (s.forget).intervalValid = false := rfl
@[simp] theorem State.forget_winSize (s : State) : (s.forget).winSize = 0 := rfl
@[simp] theorem State.forget_winOffset (s : State) : (s.forget).winOffset = 0 := rfl
@[simp] theorem State.forget_evcnt (s : State) : (s.forget).evcnt = 0 := rfl
@[simp] theorem State.forget_lastPktTs (s : State) : (s.forget).lastPktTs = s.lastPktTs := rfl
@[simp] theorem State.forget_epochTs (s : State) : (s.forget).epochTs = s.epochTs := rfl
@[simp] theorem State.forget_updPending (s : State) : (s.forget).updPending = false := rfl
@[simp] theorem State.forget_updWinSize (s : State) : (s.forget).updWinSize = s.updWinSize := rfl
@[simp] theorem State.forget_updWinOffset (s : State) : (s.forget).updWinOffset = s.updWinOffset := rfl
@[simp] theorem State.forget_updInterval (s : State) : (s.forget).updInterval = s.updInterval := rfl
@[simp] theorem State.forget_updInstant (s : State) : (s.forget).updInstant = s.updInstant := rfl
@[simp] theorem State.forget_hiSmallest (s : State) : (s.forget).hiSmallest = 0xFFFFFFFF#32 := rfl
@[simp] theorem State.forget_hiMatch (s : State) : (s.forget).hiMatch = 0 := rfl
@[simp] theorem State.forget_hiEst (s : State) : (s.forget).hiEst = 0 := rfl
@[simp] theorem State.forget_hiPrevTs (s : State) : (s.forget).hiPrevTs = s.hiPrevTs := rfl
@[simp] theorem State.forget_hpFirstTs (s : State) : (s.forget).hpFirstTs = s.hpFirstTs := rfl
@[simp] theorem State.forget_hpFirstValid (s : State) : (s.forget).hpFirstValid = false := rfl
@[simp] theorem State.forget_hpRetries (s : State) : (s.forget).hpRetries = 0 := rfl
@[simp] theorem State.forget_filtAddr (s : State) : (s.forget).filtAddr = s.filtAddr := rfl
@[simp] theorem State.forget_filtMask (s : State) : (s.forget).filtMask = s.filtMask := rfl
@[simp] theorem State.forget_discTimeout (s : State) : (s.forget).discTimeout = s.discTimeout := rfl
@[simp] theorem State.forget_recovTimeout (s : State) : (s.forget).recovTimeout = s.recovTimeout := rfl
@[simp] theorem State.forget_connTimeout (s : State) : (s.forget).connTimeout = s.connTimeout := rfl
@[simp] theorem State.forget_pb (s : State) : (s.forget).pb = s.pb := rfl
@[simp] theorem State.forget_pbq (s : State) : (s.forget).pbq = s.pbq := rfl
@[simp] theorem State.forget_discards (s : State) : (s.forget).discards = s.discards := rfl
@[simp] theorem State.forget_rtPending (s : State) : (s.forget).rtPending = s.rtPending := rfl
@[simp] theorem State.forget_rtChan (s : State) : (s.forget).rtChan = s.rtChan := rfl
@[simp] theorem State.forget_whCap (s : State) : (s.forget).whCap = s.whCap := rfl
@[simp] theorem State.forget_whProc (s : State) : (s.forget).whProc = s.whProc := rfl
@[simp] theorem State.forget_capPort (s : State) : (s.forget).capPort = s.capPort := rfl
@[simp] theorem State.forget_procPort (s : State) : (s.forget).procPort = s.procPort := rfl
@[simp] theorem State.forget_agent (s : State) : (s.forget).agent = s.agent := rfl
@[simp] theorem State.forget_arbPlan (s : State) : (s.forget).arbPlan = s.arbPlan := rfl
@[simp] theorem State.forget_arbSeq (s : State) : (s.forget).arbSeq = s.arbSeq := rfl
@[simp] theorem State.forget_params (s : State) : (s.forget).params = s.params := rfl

/-! ### `State.latch` -/

@[simp] theorem State.latch_mode (s : State) (now : Ts) : (s.latch now).mode = s.mode := rfl
@[simp] theorem State.latch_stage (s : State) (now : Ts) : (s.latch now).stage = s.stage := rfl
@[simp] theorem State.latch_lstate (s : State) (now : Ts) : (s.latch now).lstate = s.lstate := rfl
@[simp] theorem State.latch_stageTsValid (s : State) (now : Ts) : (s.latch now).stageTsValid = true := rfl
@[simp] theorem State.latch_aa (s : State) (now : Ts) : (s.latch now).aa = s.aa := rfl
@[simp] theorem State.latch_aaValid (s : State) (now : Ts) : (s.latch now).aaValid = s.aaValid := rfl
@[simp] theorem State.latch_crcLfsr (s : State) (now : Ts) : (s.latch now).crcLfsr = s.crcLfsr := rfl
@[simp] theorem State.latch_crcRaw (s : State) (now : Ts) : (s.latch now).crcRaw = s.crcRaw := rfl
@[simp] theorem State.latch_crcVerified (s : State) (now : Ts) : (s.latch now).crcVerified = s.crcVerified := rfl
@[simp] theorem State.latch_crcVerify (s : State) (now : Ts) : (s.latch now).crcVerify = s.crcVerify := rfl
@[simp] theorem State.latch_hopinc (s : State) (now : Ts) : (s.latch now).hopinc = s.hopinc := rfl
@[simp] theorem State.latch_hopincValid (s : State) (now : Ts) : (s.latch now).hopincValid = s.hopincValid := rfl
@[simp] theorem State.latch_chan (s : State) (now : Ts) : (s.latch now).chan = s.chan := rfl
@[simp] theorem State.latch_discChan (s : State) (now : Ts) : (s.latch now).discChan = s.discChan := rfl
@[simp] theorem State.latch_interval (s : State) (now : Ts) : (s.latch now).interval = s.interval := rfl
@[simp] theorem State.latch_intervalValid (s : State) (now : Ts) : (s.latch now).intervalValid = s.intervalValid := rfl
@[simp] theorem State.latch_winSize (s : State) (now : Ts) : (s.latch now).winSize = s.winSize := rfl
@[simp] theorem State.latch_winOffset (s : State) (now : Ts) : (s.latch now).winOffset = s.winOffset := rfl
@[simp] theorem State.latch_evcnt (s : State) (now : Ts) : (s.latch now).evcnt = s.evcnt := rfl
@[simp] theorem State.latch_lastPktTs (s : State) (now : Ts) : (s.latch now).lastPktTs = s.lastPktTs := rfl
@[simp] theorem State.latch_epochTs (s : State) (now : Ts) : (s.latch now).epochTs = s.epochTs := rfl
@[simp] theorem State.latch_updPending (s : State) (now : Ts) : (s.latch now).updPending = s.updPending := rfl
@[simp] theorem State.latch_updWinSize (s : State) (now : Ts) : (s.latch now).updWinSize = s.updWinSize := rfl
@[simp] theorem State.latch_updWinOffset (s : State) (now : Ts) : (s.latch now).updWinOffset = s.updWinOffset := rfl
@[simp] theorem State.latch_updInterval (s : State) (now : Ts) : (s.latch now).updInterval = s.updInterval := rfl
@[simp] theorem State.latch_updInstant (s : State) (now : Ts) : (s.latch now).updInstant = s.updInstant := rfl
@[simp] theorem State.latch_hiSmallest (s : State) (now : Ts) : (s.latch now).hiSmallest = s.hiSmallest := rfl
@[simp] theorem State.latch_hiMatch (s : State) (now : Ts) : (s.latch now).hiMatch = s.hiMatch := rfl
@[simp] theorem State.latch_hiEst (s : State) (now : Ts) : (s.latch now).hiEst = s.hiEst := rfl
@[simp] theorem State.latch_hiPrevTs (s : State) (now : Ts) : (s.latch now).hiPrevTs = s.hiPrevTs := rfl
@[simp] theorem State.latch_hpFirstTs (s : State) (now : Ts) : (s.latch now).hpFirstTs = s.hpFirstTs := rfl
@[simp] theorem State.latch_hpFirstValid (s : State) (now : Ts) : (s.latch now).hpFirstValid = s.hpFirstValid := rfl
@[simp] theorem State.latch_hpRetries (s : State) (now : Ts) : (s.latch now).hpRetries = s.hpRetries := rfl
@[simp] theorem State.latch_filtAddr (s : State) (now : Ts) : (s.latch now).filtAddr = s.filtAddr := rfl
@[simp] theorem State.latch_filtMask (s : State) (now : Ts) : (s.latch now).filtMask = s.filtMask := rfl
@[simp] theorem State.latch_discTimeout (s : State) (now : Ts) : (s.latch now).discTimeout = s.discTimeout := rfl
@[simp] theorem State.latch_recovTimeout (s : State) (now : Ts) : (s.latch now).recovTimeout = s.recovTimeout := rfl
@[simp] theorem State.latch_connTimeout (s : State) (now : Ts) : (s.latch now).connTimeout = s.connTimeout := rfl
@[simp] theorem State.latch_ac (s : State) (now : Ts) : (s.latch now).ac = s.ac := rfl
@[simp] theorem State.latch_pb (s : State) (now : Ts) : (s.latch now).pb = s.pb := rfl
@[simp] theorem State.latch_pbq (s : State) (now : Ts) : (s.latch now).pbq = s.pbq := rfl
@[simp] theorem State.latch_discards (s : State) (now : Ts) : (s.latch now).discards = s.discards := rfl
@[simp] theorem State.latch_rtPending (s : State) (now : Ts) : (s.latch now).rtPending = s.rtPending := rfl
@[simp] theorem State.latch_rtChan (s : State) (now : Ts) : (s.latch now).rtChan = s.rtChan := rfl
@[simp] theorem State.latch_whCap (s : State) (now : Ts) : (s.latch now).whCap = s.whCap := rfl
@[simp] theorem State.latch_whProc (s : State) (now : Ts) : (s.latch now).whProc = s.whProc := rfl
@[simp] theorem State.latch_capPort (s : State) (now : Ts) : (s.latch now).capPort = s.capPort := rfl
@[simp] theorem State.latch_procPort (s : State) (now : Ts) : (s.latch now).procPort = s.procPort := rfl
@[simp] theorem State.latch_agent (s : State) (now : Ts) : (s.latch now).agent = s.agent := rfl
@[simp] theorem State.latch_arbPlan (s : State) (now : Ts) : (s.latch now).arbPlan = s.arbPlan := rfl
@[simp] theorem State.latch_arbSeq (s : State) (now : Ts) : (s.latch now).arbSeq = s.arbSeq := rfl
@[simp] theorem State.latch_params (s : State) (now : Ts) : (s.latch now).params = s.params := rfl

end Sys2Proof.Machine
end

