-- ==== Sys2Proof/Laws/Exec.lean ====
section
/-! SUPPORT. What the shared operations and each operation of the block can do, said once: every operation answers, and the state
it leaves is the state it found with one of a few named updates and one response. Later proofs cite these and unfold no meaning. -/

namespace Sys2Proof.Machine

/-! ### The shared operations -/

/-- An operation ended with a status other than `OK` and wrote nothing (R300). -/
def Failed (op : Op) (s t : State) : Prop :=
  ∃ st, (st = .perm ∨ st ∈ statusesOf op) ∧ t = s.answer (errorResponse st)

theorem raise_next {s t : State} {st : Status} : raise s st = .next t ↔ t = s.answer (errorResponse st) := by
  simp [raise, eq_comm]

theorem reply_next {s t : State} {r : Response} : reply s r = .next t ↔ t = s.answer r := by
  simp [reply, eq_comm]

/-- The rights check either lets the operation run or answers `PERM` (R321). -/
theorem served_next {op : Op} {s t : State} {k : Result} :
    served op s k = .next t ↔
      ((rights op).allows s.agent = true ∧ k = .next t) ∨
      ((rights op).allows s.agent = false ∧ t = s.answer (errorResponse .perm)) := by
  unfold served
  cases h : (rights op).allows s.agent <;> simp [raise, eq_comm]

theorem served_of_allowed {op : Op} {s : State} {k : Result} (h : (rights op).allows s.agent = true) : served op s k = k := by
  simp [served, h]

theorem served_of_denied {op : Op} {s : State} {k : Result} (h : (rights op).allows s.agent = false) :
    served op s k = .next (s.answer (errorResponse .perm)) := by
  simp [served, h, raise]

theorem Failed.of_perm {op : Op} {s t : State} (h : t = s.answer (errorResponse .perm)) : Failed op s t := ⟨.perm, .inl rfl, h⟩

theorem Failed.of_mem {op : Op} {s t : State} {st : Status} (hm : st ∈ statusesOf op) (h : t = s.answer (errorResponse st)) :
    Failed op s t := ⟨st, .inr hm, h⟩

/-- An operation whose body answers: it fails with `PERM`, or its body's outcome stands. -/
theorem served_cases {op : Op} {s t : State} {k : Result} {P : Prop} (h : served op s k = .next t)
    (hk : k = .next t → Failed op s t ∨ P) : Failed op s t ∨ P := by
  rcases served_next.1 h with ⟨_, h⟩ | ⟨_, h⟩
  · exact hk h
  · exact .inl (.of_perm h)

theorem dropMalformed_next {s t : State} {b : Fin 4} :
    dropMalformed s b = .next t ↔ t = (s.setTag b .free).answer (errorResponse .malformed) := raise_next

/-! ### Searching in index order -/

/-- The first index with a property, in index order (R182, R210: the lowest index). -/
theorem find_finRange_some {n : Nat} {p : Fin n → Bool} {b : Fin n} :
    (List.finRange n).find? p = some b ↔ p b = true ∧ ∀ a : Fin n, a < b → p a = false := by
  rw [List.find?_eq_some_iff_getElem]
  constructor
  · rintro ⟨hb, i, hi, he, hj⟩
    refine ⟨hb, fun a ha => ?_⟩
    have hib : i = b.val := by simpa [Fin.ext_iff] using he
    have := hj a.val (by rw [hib]; exact ha)
    simpa using this
  · rintro ⟨hb, ha⟩
    refine ⟨hb, b.val, by simp, by simp, fun j hj => ?_⟩
    have := ha ⟨j, by omega⟩ hj
    simpa using this

theorem find_finRange_none {n : Nat} {p : Fin n → Bool} :
    (List.finRange n).find? p = none ↔ ∀ a : Fin n, p a = false := by
  simp [List.find?_eq_none]

/-- The buffer found with a tag has that tag, and no lower one has (R181, R182). -/
theorem findTag_some {s : State} {g : Tag} {b : Fin 4} :
    s.findTag g = some b ↔ s.pb[b].tag = g ∧ ∀ a : Fin 4, a < b → s.pb[a].tag ≠ g := by
  simp [State.findTag, find_finRange_some]

theorem findTag_none {s : State} {g : Tag} : s.findTag g = none ↔ ∀ a : Fin 4, s.pb[a].tag ≠ g := by
  simp [State.findTag]

theorem capturing_some {s : State} {b : Fin 4} :
    s.capturing = some b ↔ s.pb[b].tag = .capturing ∧ ∀ a : Fin 4, a < b → s.pb[a].tag ≠ .capturing := findTag_some

theorem capturing_none {s : State} : s.capturing = none ↔ ∀ a : Fin 4, s.pb[a].tag ≠ .capturing := findTag_none

/-- The slot found for an address is valid and holds it, and no lower one is (R210). -/
theorem holding_some {s : State} {aa : Word} {j : Fin 32} :
    s.holding aa = some j ↔
      (s.ac[j].valid = true ∧ s.ac[j].aa = aa) ∧ ∀ i : Fin 32, i < j → ¬(s.ac[i].valid = true ∧ s.ac[i].aa = aa) := by
  simp [State.holding, slots, find_finRange_some]

theorem holding_none {s : State} {aa : Word} :
    s.holding aa = none ↔ ∀ i : Fin 32, ¬(s.ac[i].valid = true ∧ s.ac[i].aa = aa) := by
  simp [State.holding, slots]

theorem vacant_some {s : State} {j : Fin 32} :
    s.vacant = some j ↔ s.ac[j].valid = false ∧ ∀ i : Fin 32, i < j → s.ac[i].valid = true := by
  simp [State.vacant, slots, find_finRange_some]

theorem vacant_none {s : State} : s.vacant = none ↔ ∀ i : Fin 32, s.ac[i].valid = true := by
  simp [State.vacant, slots]

/-- The slot to evict has the least count, and it is the lowest such slot (R210). -/
theorem leastSeen_spec (s : State) :
    (∀ k : Fin 32, s.ac[s.leastSeen].count.toNat ≤ s.ac[k].count.toNat) ∧
      ∀ i : Fin 32, i < s.leastSeen → s.ac[s.leastSeen].count.toNat < s.ac[i].count.toNat := by
  obtain ⟨m, -, hm⟩ := Finset.exists_min_image (Finset.univ : Finset (Fin 32)) (fun i => s.ac[i].count.toNat) ⟨0, by simp⟩
  have hex : ∃ j, (slots.find? fun i => slots.all fun k => decide (s.ac[i].count.toNat ≤ s.ac[k].count.toNat)) = some j := by
    rw [← Option.isSome_iff_exists, List.find?_isSome]
    exact ⟨m, by simp [slots], by simpa [slots] using fun k => hm k (Finset.mem_univ k)⟩
  obtain ⟨j, hj⟩ := hex
  have hl : s.leastSeen = j := by
    unfold State.leastSeen
    rw [hj]
    rfl
  simp only [hl]
  rw [slots, find_finRange_some] at hj
  have h1 : ∀ k : Fin 32, s.ac[j].count.toNat ≤ s.ac[k].count.toNat := by simpa using hj.1
  refine ⟨h1, fun i hi => ?_⟩
  by_contra hle
  have h2 := hj.2 i hi
  simp only [List.all_eq_false] at h2
  obtain ⟨k, -, hk⟩ := h2
  simp only [decide_eq_true_eq] at hk
  exact hk (by have := h1 k; omega)

theorem bufIndex_some {buf : Byte} {b : Fin 4} : bufIndex buf = some b ↔ buf.toNat = b.val := by
  unfold bufIndex
  split
  · simp [Fin.ext_iff]
  · have := b.isLt
    constructor
    · intro h
      cases h
    · intro h
      omega

theorem bufIndex_none {buf : Byte} : bufIndex buf = none ↔ 3 < buf.toNat := by
  unfold bufIndex
  split <;> simp <;> omega

theorem slotIndex_some {slot : Byte} {i : Fin 32} : slotIndex slot = some i ↔ slot.toNat = i.val := by
  unfold slotIndex
  split
  · simp [Fin.ext_iff]
  · have := i.isLt
    constructor
    · intro h
      cases h
    · intro h
      omega

theorem slotIndex_none {slot : Byte} : slotIndex slot = none ↔ 31 < slot.toNat := by
  unfold slotIndex
  split <;> simp <;> omega

end Sys2Proof.Machine
end

