-- ==== Sys2Proof/Laws/Effects.lean ====
section
/-! SUPPORT. The one inversion lemma of the block: `exec_next` says of every operation, with its guards, what state it can leave.
Proofs over all operations start from it and unfold no meaning. -/

namespace Sys2Proof.Machine

/-- What an operation leaves when it does not merely fail: its guards and the state after it. The two failures that write state,
`NOBUF` and `MALFORMED`, stand here (R300). -/
def Effect (i : Instr) (s t : State) : Prop :=
  match i with
  | .cmI2f idx => idx.toNat ≤ 39 ∧ t = s.answer { rb := toHalf (chanFreq idx.toNat) }
  | .cmF2i freq => ∃ k, freqChan freq.toNat = some k ∧ t = s.answer { ra := toByte k }
  | .cmAdv => t = s.answer { words := [0x00272625#32] }
  | .cmHop idx inc => idx.toNat ≤ 36 ∧ inc.toNat ≤ 36 ∧ t = s.answer { ra := dataChan (idx.toNat + inc.toNat) }
  | .whLoad ch start =>
    ch.toNat ≤ 39 ∧ t = (s.setWhc { loaded := true, ch := ch, pos := advance (whIdx ch) start.toNat }).answer {}
  | .whStep nbits =>
    1 ≤ nbits.toNat ∧ nbits.toNat ≤ 32 ∧ s.whc.loaded = true ∧
      t = (s.setWhc { s.whc with pos := advance s.whc.pos.toNat nbits.toNat }).answer
        { words := [toWord (seqBits s.whc.pos.toNat nbits.toNat)] }
  | .whXor ch start data =>
    ch.toNat ≤ 39 ∧ data.length ≤ 263 ∧
      t = s.answer { rb := toHalf data.length, data := whiten (whIdx ch + start.toNat) data }
  | .whXors data =>
    data.length ≤ 263 ∧ s.whc.loaded = true ∧
      t = (s.setWhc { s.whc with pos := advance s.whc.pos.toNat (8 * data.length) }).answer
        { rb := toHalf data.length, data := whiten s.whc.pos.toNat data }
  | .whRefl data => data.length ≤ 263 ∧ t = s.answer { rb := toHalf data.length, data := data.map rev8 }
  | .crcFwd seed data => data.length ≤ 263 ∧ t = s.answer { words := [crcWord (crcForward seed data)] }
  | .crcFwdt seed data => data.length ≤ 263 ∧ t = s.answer { words := [crcWord (crcTable seed data)] }
  | .crcRev crc data => data.length ≤ 263 ∧ t = s.answer { words := [crcWord (crcReverse crc data)] }
  | .crcRev24 v => t = s.answer { words := [crcWord (rev24 v)] }
  | .crcChk seed data =>
    3 ≤ data.length ∧ data.length ≤ 263 ∧
      t = s.answer { ra := toByte (bit (crcOk seed data)), words := [crcWord (bodyCrc seed data), crcWord (wireCrc data)] }
  | .pbAcq =>
    s.capturing = none ∧
      ((s.findTag .free = none ∧ t = State.answer { s with discards := satSucc s.discards } (errorResponse .noBuf)) ∨
        ∃ b, s.findTag .free = some b ∧ t = (s.setBuf b s.pb[b].acquired).answer { ra := toByte b.val })
  | .pbWrite data =>
    data.length ≤ 263 ∧ ∃ b, s.capturing = some b ∧
      ((t = (s.setTag b .free).answer (errorResponse .malformed) ∧
          (263 < s.pb[b].len.toNat + data.length ∨ overDeclared s.params (s.pb[b].bytes ++ data) = true)) ∨
        (s.pb[b].len.toNat + data.length ≤ 263 ∧ overDeclared s.params (s.pb[b].bytes ++ data) = false ∧
          t = (s.setBuf b (s.pb[b].append data)).answer { rb := toHalf (s.pb[b].len.toNat + data.length) }))
  | .pbRssi sample => ∃ b, s.capturing = some b ∧ t = (s.setBuf b (s.pb[b].sample sample)).answer {}
  | .pbCommit chan ts aa =>
    chan.toNat ≤ 39 ∧ ∃ b, s.capturing = some b ∧
      ((s.pb[b].whole s.params = false ∧ t = (s.setTag b .free).answer (errorResponse .malformed)) ∨
        (s.pb[b].whole s.params = true ∧
          t = State.answer
            { s.setBuf b { s.pb[b] with chan := chan, ts := ts, aa := aa, tag := .queued } with pbq := s.pbq ++ [b] }
            { ra := toByte b.val }))
  | .pbAbort => ∃ b, s.capturing = some b ∧ t = (s.setTag b .free).answer {}
  | .pbPoll => ∃ b q, s.pbq = b :: q ∧ t = s.answer { ra := toByte b.val }
  | .pbRead buf => ∃ b : Fin 4, buf.toNat = b.val ∧ s.pb[b].tag = .queued ∧ t = s.answer s.pb[b].report
  | .pbRel buf =>
    ∃ b : Fin 4, buf.toNat = b.val ∧ s.pb[b].tag = .queued ∧
      t = State.answer { s.setTag b .free with pbq := s.pbq.filter fun x => x != b } {}
  | .pbStat =>
    t = s.answer
      { ra := tagByte s.pb[0].tag s.pb[1].tag s.pb[2].tag s.pb[3].tag, rb := toHalf s.pbq.length, words := [s.discards] }
  | .acClear => t = s.clearCache.answer {}
  | .acSee aa =>
    s.stage = .discovery ∧
      (((see s aa).2.promoted = true ∧
          t = ((see s aa).1.promote aa).answer (seeResponse (see s aa).1 (see s aa).2 (promoteEvents (see s aa).1 aa))) ∨
        ((see s aa).2.promoted = false ∧ t = (see s aa).1.answer (seeResponse (see s aa).1 (see s aa).2 [])))
  | .acScan ch data =>
    ch.toNat ≤ 39 ∧ data.length ≤ 263 ∧ s.stage = .discovery ∧
      t = (scan s ch data).state.answer
        { rb := toHalf (bit (scan s ch data).promoted), words := [toWord (scan s ch data).found, (scan s ch data).last],
          events := (scan s ch data).events }
  | .acGet slot =>
    ∃ j : Fin 32, slot.toNat = j.val ∧
      ((s.ac[j].valid = true ∧ t = s.answer { ra := 1, words := [s.ac[j].aa, s.ac[j].count] }) ∨
        (s.ac[j].valid = false ∧ t = s.answer { ra := 0, words := [0, 0] }))
  | .prStart ch =>
    ch.toNat ≤ 39 ∧ s.mode = .off ∧ t = (s.startDiscovery ch).answer { events := [(s.startDiscovery ch).stageEvent] }
  | .prStop => s.mode = .promisc ∧ t = s.shutDown.answer { events := [s.shutDown.stageEvent] }
  | .prPkt buf =>
    ∃ b : Fin 4, buf.toNat = b.val ∧ s.pb[b].tag = .queued ∧
      t = (intake s b).state.answer
        { ra := (intake s b).disposition.code, rb := toHalf (intake s b).state.stage.code, events := (intake s b).events }
  | .tick now =>
    (s.mode = .off ∧ t = s.answer {}) ∨
      (s.mode ≠ .off ∧ timeouts (s.latch now) now = none ∧ t = (s.latch now).answer {}) ∨
      (s.mode ≠ .off ∧ ∃ u events, timeouts (s.latch now) now = some (u, events) ∧ t = u.answer { ra := 1, events := events })
  | .prReseed => s.mode = .promisc ∧ t = s.reseeded.answer { events := reseedEvents s .command }
  | .prGet => t = s.answer { words := reportWords s }
  | .prSetaa aa =>
    s.mode = .promisc ∧ t = (s.track aa).answer { events := [.aa aa .operator, (s.track aa).stageEvent] }
  | .prGetaa =>
    (s.aaValid = true ∧ t = s.answer { ra := 1, words := [s.aa] }) ∨ (s.aaValid = false ∧ t = s.answer { ra := 0, words := [0] })
  | .prSetcv on => on.toNat ≤ 1 ∧ t = State.answer { s with crcVerify := on == 1#8 } {}
  | .prGetcv => t = s.answer { ra := toByte (bit s.crcVerify), rb := toHalf (bit s.crcVerified) }
  | .prSetto which ticks =>
    (which.toNat = 0 ∧ t = State.answer { s with discTimeout := ticks } {}) ∨
      (which.toNat = 1 ∧ t = State.answer { s with recovTimeout := ticks } {}) ∨
      (which.toNat = 2 ∧ t = State.answer { s with connTimeout := ticks } {})
  | .lsFollow ch =>
    37 ≤ ch.toNat ∧ ch.toNat ≤ 39 ∧ s.mode = .off ∧ t = (s.startFollow ch).answer { events := [(s.startFollow ch).stageEvent] }
  | .lsStop => s.mode = .follow ∧ t = s.shutDown.answer { events := [s.shutDown.stageEvent] }
  | .lsFilter addr mask => t = State.answer { s with filtAddr := addr, filtMask := mask } {}
  | .lsConnreq hopinc aa crc winSize winOffset interval ts init adv =>
    hopinc.toNat ≤ 36 ∧ s.mode = .follow ∧ s.lstate = .listening ∧
      ((passes s init adv = false ∧ t = s.answer { ra := 0 }) ∨
        (passes s init adv = true ∧ ∃ q : ConnRequest,
          q = { hopinc := hopinc, aa := aa, crc := crc, winSize := winSize, winOffset := winOffset, interval := interval,
                ts := ts } ∧
          t = (s.connect q).answer { ra := 1, rb := (s.connect q).chan.setWidth 16, events := connectEvents s q }))
  | .lsUpdate winSize instant interval winOffset =>
    s.lstate = .connected ∧
      t = State.answer
        { s with
          updWinSize := winSize, updWinOffset := winOffset, updInterval := interval, updInstant := instant, updPending := true }
        { rb := s.evcnt }
  | .lsEvent =>
    s.lstate = .connected ∧
      ((s.countEvent.updateDue = true ∧
          t = s.countEvent.applyUpdate.hop.answer
            { ra := s.countEvent.applyUpdate.hop.chan, rb := s.countEvent.applyUpdate.hop.evcnt, words := [1],
              events := [s.countEvent.applyUpdate.updateEvent] }) ∨
        (s.countEvent.updateDue = false ∧
          t = s.countEvent.hop.answer { ra := s.countEvent.hop.chan, rb := s.countEvent.hop.evcnt, words := [0] }))
  | .lsCancel =>
    (s.mode = .off ∧ t = s.answer { ra := 0 }) ∨
      (s.mode ≠ .off ∧ t = s.unlink.answer { ra := 1, events := unlinkEvents s .cancel })
  | .rtTake =>
    s.rtPending = true ∧
      t = State.answer { s with rtPending := false } { ra := s.rtChan, rb := toHalf (chanFreq s.rtChan.toNat) }

theorem badChan_false {ch : Byte} : badChan ch = false ↔ ch.toNat ≤ 39 := by simp [badChan]

theorem tooLong_false {d : List Byte} : tooLong d = false ↔ d.length ≤ 263 := by simp [tooLong]

theorem badChan_true {ch : Byte} : badChan ch = true ↔ 39 < ch.toNat := by simp [badChan]

theorem tooLong_true {d : List Byte} : tooLong d = true ↔ 263 < d.length := by simp [tooLong]

/-! ### One inversion lemma for each operation -/

variable {s t : State}

/-- The first check of a body: it raises, or the body goes on. -/
theorem ite_raise_next {op : Op} {c : Prop} [Decidable c] {st : Status} {k : Result} {P : Prop}
    (h : (if c then raise s st else k) = .next t) (hm : st ∈ statusesOf op)
    (hk : ¬c → k = .next t → Failed op s t ∨ P) : Failed op s t ∨ P := by
  split at h
  · exact .inl (.of_mem hm (raise_next.1 h))
  · next hc => exact hk hc h

theorem execCmI2f_next {idx : Byte} (h : execCmI2f idx s = .next t) : Failed .cmI2f s t ∨ Effect (.cmI2f idx) s t :=
  served_cases h fun h => ite_raise_next h (by decide) fun hc h => .inr ⟨badChan_false.1 (by simpa using hc), reply_next.1 h⟩

theorem execCmF2i_next {freq : Half} (h : execCmF2i freq s = .next t) : Failed .cmF2i s t ∨ Effect (.cmF2i freq) s t := by
  refine served_cases h fun h => ?_
  split at h
  · exact .inl (.of_mem (by decide) (raise_next.1 h))
  · next k hk => exact .inr ⟨k, hk, reply_next.1 h⟩

theorem execCmAdv_next (h : execCmAdv s = .next t) : Failed .cmAdv s t ∨ Effect .cmAdv s t :=
  served_cases h fun h => .inr (reply_next.1 h)

theorem execCmHop_next {idx inc : Byte} (h : execCmHop idx inc s = .next t) : Failed .cmHop s t ∨ Effect (.cmHop idx inc) s t :=
  served_cases h fun h => ite_raise_next h (by decide) fun h1 h => ite_raise_next h (by decide) fun h2 h =>
    .inr ⟨by omega, by omega, reply_next.1 h⟩

theorem execWhLoad_next {ch : Byte} {start : Half} (h : execWhLoad ch start s = .next t) :
    Failed .whLoad s t ∨ Effect (.whLoad ch start) s t :=
  served_cases h fun h => ite_raise_next h (by decide) fun hc h => .inr ⟨badChan_false.1 (by simpa using hc), reply_next.1 h⟩

theorem execWhStep_next {nbits : Byte} (h : execWhStep nbits s = .next t) : Failed .whStep s t ∨ Effect (.whStep nbits) s t :=
  served_cases h fun h => ite_raise_next h (by decide) fun h1 h => ite_raise_next h (by decide) fun h2 h =>
    .inr ⟨by omega, by omega, by simpa using h2, reply_next.1 h⟩

theorem execWhXor_next {ch : Byte} {start : Half} {data : List Byte} (h : execWhXor ch start data s = .next t) :
    Failed .whXor s t ∨ Effect (.whXor ch start data) s t :=
  served_cases h fun h => ite_raise_next h (by decide) fun hc h => by
    rw [Bool.or_eq_true, not_or, Bool.not_eq_true, Bool.not_eq_true, badChan_false, tooLong_false] at hc
    exact .inr ⟨hc.1, hc.2, reply_next.1 h⟩

theorem execWhXors_next {data : List Byte} (h : execWhXors data s = .next t) : Failed .whXors s t ∨ Effect (.whXors data) s t :=
  served_cases h fun h => ite_raise_next h (by decide) fun h1 h => ite_raise_next h (by decide) fun h2 h =>
    .inr ⟨tooLong_false.1 (by simpa using h1), by simpa using h2, reply_next.1 h⟩

theorem execWhRefl_next {data : List Byte} (h : execWhRefl data s = .next t) : Failed .whRefl s t ∨ Effect (.whRefl data) s t :=
  served_cases h fun h => ite_raise_next h (by decide) fun h1 h => .inr ⟨tooLong_false.1 (by simpa using h1), reply_next.1 h⟩

theorem execCrcFwd_next {seed : Crc} {data : List Byte} (h : execCrcFwd seed data s = .next t) :
    Failed .crcFwd s t ∨ Effect (.crcFwd seed data) s t :=
  served_cases h fun h => ite_raise_next h (by decide) fun h1 h => .inr ⟨tooLong_false.1 (by simpa using h1), reply_next.1 h⟩

theorem execCrcFwdt_next {seed : Crc} {data : List Byte} (h : execCrcFwdt seed data s = .next t) :
    Failed .crcFwdt s t ∨ Effect (.crcFwdt seed data) s t :=
  served_cases h fun h => ite_raise_next h (by decide) fun h1 h => .inr ⟨tooLong_false.1 (by simpa using h1), reply_next.1 h⟩

theorem execCrcRev_next {crc : Crc} {data : List Byte} (h : execCrcRev crc data s = .next t) :
    Failed .crcRev s t ∨ Effect (.crcRev crc data) s t :=
  served_cases h fun h => ite_raise_next h (by decide) fun h1 h => .inr ⟨tooLong_false.1 (by simpa using h1), reply_next.1 h⟩

theorem execCrcRev24_next {v : Crc} (h : execCrcRev24 v s = .next t) : Failed .crcRev24 s t ∨ Effect (.crcRev24 v) s t :=
  served_cases h fun h => .inr (reply_next.1 h)

theorem execCrcChk_next {seed : Crc} {data : List Byte} (h : execCrcChk seed data s = .next t) :
    Failed .crcChk s t ∨ Effect (.crcChk seed data) s t :=
  served_cases h fun h => ite_raise_next h (by decide) fun hc h => by
    rw [Bool.or_eq_true, not_or, Bool.not_eq_true, Bool.not_eq_true, decide_eq_false_iff_not, tooLong_false] at hc
    exact .inr ⟨by omega, hc.2, reply_next.1 h⟩

theorem execPbAcq_next (h : execPbAcq s = .next t) : Failed .pbAcq s t ∨ Effect .pbAcq s t := by
  refine served_cases h fun h => ?_
  split at h
  · exact .inl (.of_mem (by decide) (raise_next.1 h))
  · next hc =>
    split at h
    · next hf => exact .inr ⟨hc, .inl ⟨hf, raise_next.1 h⟩⟩
    · next b hf => exact .inr ⟨hc, .inr ⟨b, hf, reply_next.1 h⟩⟩

theorem execPbWrite_next {data : List Byte} (h : execPbWrite data s = .next t) :
    Failed .pbWrite s t ∨ Effect (.pbWrite data) s t := by
  refine served_cases h fun h => ite_raise_next h (by decide) fun hd h => ?_
  have hd : data.length ≤ 263 := tooLong_false.1 (by simpa using hd)
  split at h
  · exact .inl (.of_mem (by decide) (raise_next.1 h))
  · next b hb =>
    split at h
    · next h1 => exact .inr ⟨hd, b, hb, .inl ⟨dropMalformed_next.1 h, .inl h1⟩⟩
    · next h1 =>
      split at h
      · next h2 => exact .inr ⟨hd, b, hb, .inl ⟨dropMalformed_next.1 h, .inr h2⟩⟩
      · next h2 => exact .inr ⟨hd, b, hb, .inr ⟨not_lt.1 h1, by simpa using h2, reply_next.1 h⟩⟩

theorem execPbRssi_next {sample : Byte} (h : execPbRssi sample s = .next t) : Failed .pbRssi s t ∨ Effect (.pbRssi sample) s t := by
  refine served_cases h fun h => ?_
  split at h
  · exact .inl (.of_mem (by decide) (raise_next.1 h))
  · next b hb => exact .inr ⟨b, hb, reply_next.1 h⟩

theorem execPbCommit_next {chan : Byte} {ts : Ts} {aa : Word} (h : execPbCommit chan ts aa s = .next t) :
    Failed .pbCommit s t ∨ Effect (.pbCommit chan ts aa) s t := by
  refine served_cases h fun h => ite_raise_next h (by decide) fun hd h => ?_
  have hd : chan.toNat ≤ 39 := badChan_false.1 (by simpa using hd)
  split at h
  · exact .inl (.of_mem (by decide) (raise_next.1 h))
  · next b hb =>
    split at h
    · next h1 => exact .inr ⟨hd, b, hb, .inr ⟨h1, reply_next.1 h⟩⟩
    · next h1 => exact .inr ⟨hd, b, hb, .inl ⟨by simpa using h1, dropMalformed_next.1 h⟩⟩

theorem execPbAbort_next (h : execPbAbort s = .next t) : Failed .pbAbort s t ∨ Effect .pbAbort s t := by
  refine served_cases h fun h => ?_
  split at h
  · exact .inl (.of_mem (by decide) (raise_next.1 h))
  · next b hb => exact .inr ⟨b, hb, reply_next.1 h⟩

theorem execPbPoll_next (h : execPbPoll s = .next t) : Failed .pbPoll s t ∨ Effect .pbPoll s t := by
  refine served_cases h fun h => ?_
  split at h
  · exact .inl (.of_mem (by decide) (raise_next.1 h))
  · next b q hb => exact .inr ⟨b, q, hb, reply_next.1 h⟩

theorem execPbRead_next {buf : Byte} (h : execPbRead buf s = .next t) : Failed .pbRead s t ∨ Effect (.pbRead buf) s t := by
  refine served_cases h fun h => ?_
  split at h
  · exact .inl (.of_mem (by decide) (raise_next.1 h))
  · next b hb =>
    split at h
    · next hq => exact .inr ⟨b, bufIndex_some.1 hb, hq, reply_next.1 h⟩
    · exact .inl (.of_mem (by decide) (raise_next.1 h))

theorem execPbRel_next {buf : Byte} (h : execPbRel buf s = .next t) : Failed .pbRel s t ∨ Effect (.pbRel buf) s t := by
  refine served_cases h fun h => ?_
  split at h
  · exact .inl (.of_mem (by decide) (raise_next.1 h))
  · next b hb =>
    split at h
    · next hq => exact .inr ⟨b, bufIndex_some.1 hb, hq, reply_next.1 h⟩
    · exact .inl (.of_mem (by decide) (raise_next.1 h))

theorem execPbStat_next (h : execPbStat s = .next t) : Failed .pbStat s t ∨ Effect .pbStat s t :=
  served_cases h fun h => .inr (reply_next.1 h)

theorem execAcClear_next (h : execAcClear s = .next t) : Failed .acClear s t ∨ Effect .acClear s t :=
  served_cases h fun h => .inr (reply_next.1 h)

theorem execAcSee_next {aa : Word} (h : execAcSee aa s = .next t) : Failed .acSee s t ∨ Effect (.acSee aa) s t := by
  refine served_cases h fun h => ?_
  split at h
  · next hd =>
    dsimp only at h
    split at h
    · next hp => exact .inr ⟨hd, .inl ⟨hp, reply_next.1 h⟩⟩
    · next hp => exact .inr ⟨hd, .inr ⟨by simpa using hp, reply_next.1 h⟩⟩
  · exact .inl (.of_mem (by decide) (raise_next.1 h))

theorem execAcScan_next {ch : Byte} {data : List Byte} (h : execAcScan ch data s = .next t) :
    Failed .acScan s t ∨ Effect (.acScan ch data) s t := by
  refine served_cases h fun h => ite_raise_next h (by decide) fun hc h => ?_
  rw [Bool.or_eq_true, not_or, Bool.not_eq_true, Bool.not_eq_true, badChan_false, tooLong_false] at hc
  split at h
  · next hd => exact .inr ⟨hc.1, hc.2, hd, reply_next.1 h⟩
  · exact .inl (.of_mem (by decide) (raise_next.1 h))

theorem execAcGet_next {slot : Byte} (h : execAcGet slot s = .next t) : Failed .acGet s t ∨ Effect (.acGet slot) s t := by
  refine served_cases h fun h => ?_
  split at h
  · exact .inl (.of_mem (by decide) (raise_next.1 h))
  · next j hj =>
    split at h
    · next hv => exact .inr ⟨j, slotIndex_some.1 hj, .inl ⟨hv, reply_next.1 h⟩⟩
    · next hv => exact .inr ⟨j, slotIndex_some.1 hj, .inr ⟨by simpa using hv, reply_next.1 h⟩⟩

theorem execPrStart_next {ch : Byte} (h : execPrStart ch s = .next t) : Failed .prStart s t ∨ Effect (.prStart ch) s t := by
  refine served_cases h fun h => ite_raise_next h (by decide) fun hc h => ?_
  split at h
  · next hm => exact .inr ⟨badChan_false.1 (by simpa using hc), hm, reply_next.1 h⟩
  · exact .inl (.of_mem (by decide) (raise_next.1 h))

theorem execPrStop_next (h : execPrStop s = .next t) : Failed .prStop s t ∨ Effect .prStop s t := by
  refine served_cases h fun h => ?_
  split at h
  · next hm => exact .inr ⟨hm, reply_next.1 h⟩
  · exact .inl (.of_mem (by decide) (raise_next.1 h))

theorem execPrPkt_next {buf : Byte} (h : execPrPkt buf s = .next t) : Failed .prPkt s t ∨ Effect (.prPkt buf) s t := by
  refine served_cases h fun h => ?_
  split at h
  · exact .inl (.of_mem (by decide) (raise_next.1 h))
  · next b hb =>
    split at h
    · next hq => exact .inr ⟨b, bufIndex_some.1 hb, hq, reply_next.1 h⟩
    · exact .inl (.of_mem (by decide) (raise_next.1 h))

theorem execTick_next {now : Ts} (h : execTick now s = .next t) : Failed .tick s t ∨ Effect (.tick now) s t := by
  refine served_cases h fun h => ?_
  split at h
  · next hm => exact .inr (.inl ⟨hm, reply_next.1 h⟩)
  · next hm =>
    split at h
    · next u events hu => exact .inr (.inr (.inr ⟨hm, u, events, hu, reply_next.1 h⟩))
    · next hu => exact .inr (.inr (.inl ⟨hm, hu, reply_next.1 h⟩))

theorem execPrReseed_next (h : execPrReseed s = .next t) : Failed .prReseed s t ∨ Effect .prReseed s t := by
  refine served_cases h fun h => ?_
  split at h
  · next hm => exact .inr ⟨hm, reply_next.1 h⟩
  · exact .inl (.of_mem (by decide) (raise_next.1 h))

theorem execPrGet_next (h : execPrGet s = .next t) : Failed .prGet s t ∨ Effect .prGet s t :=
  served_cases h fun h => .inr (reply_next.1 h)

theorem execPrSetaa_next {aa : Word} (h : execPrSetaa aa s = .next t) : Failed .prSetaa s t ∨ Effect (.prSetaa aa) s t := by
  refine served_cases h fun h => ?_
  split at h
  · next hm => exact .inr ⟨hm, reply_next.1 h⟩
  · exact .inl (.of_mem (by decide) (raise_next.1 h))

theorem execPrGetaa_next (h : execPrGetaa s = .next t) : Failed .prGetaa s t ∨ Effect .prGetaa s t := by
  refine served_cases h fun h => ?_
  split at h
  · next hv => exact .inr (.inl ⟨hv, reply_next.1 h⟩)
  · next hv => exact .inr (.inr ⟨by simpa using hv, reply_next.1 h⟩)

theorem execPrSetcv_next {on : Byte} (h : execPrSetcv on s = .next t) : Failed .prSetcv s t ∨ Effect (.prSetcv on) s t :=
  served_cases h fun h => ite_raise_next h (by decide) fun hc h => .inr ⟨not_lt.1 hc, reply_next.1 h⟩

theorem execPrGetcv_next (h : execPrGetcv s = .next t) : Failed .prGetcv s t ∨ Effect .prGetcv s t :=
  served_cases h fun h => .inr (reply_next.1 h)

/-- The selector of `PR_SETTO` names one of the three registers, or none (R259). -/
theorem setTimeout_some {which : Nat} {ticks : Word} {u : State} (h : s.setTimeout which ticks = some u) :
    (which = 0 ∧ u = { s with discTimeout := ticks }) ∨ (which = 1 ∧ u = { s with recovTimeout := ticks }) ∨
      (which = 2 ∧ u = { s with connTimeout := ticks }) := by
  unfold State.setTimeout at h
  split at h <;> simp_all

theorem execPrSetto_next {which : Byte} {ticks : Word} (h : execPrSetto which ticks s = .next t) :
    Failed .prSetto s t ∨ Effect (.prSetto which ticks) s t := by
  refine served_cases h fun h => ?_
  split at h
  · exact .inl (.of_mem (by decide) (raise_next.1 h))
  · next u hu =>
    right
    rcases setTimeout_some hu with ⟨hw, rfl⟩ | ⟨hw, rfl⟩ | ⟨hw, rfl⟩
    · exact .inl ⟨hw, reply_next.1 h⟩
    · exact .inr (.inl ⟨hw, reply_next.1 h⟩)
    · exact .inr (.inr ⟨hw, reply_next.1 h⟩)

theorem execLsFollow_next {ch : Byte} (h : execLsFollow ch s = .next t) : Failed .lsFollow s t ∨ Effect (.lsFollow ch) s t := by
  refine served_cases h fun h => ite_raise_next h (by decide) fun hc h => ?_
  split at h
  · next hm => exact .inr ⟨by omega, by omega, hm, reply_next.1 h⟩
  · exact .inl (.of_mem (by decide) (raise_next.1 h))

theorem execLsStop_next (h : execLsStop s = .next t) : Failed .lsStop s t ∨ Effect .lsStop s t := by
  refine served_cases h fun h => ?_
  split at h
  · next hm => exact .inr ⟨hm, reply_next.1 h⟩
  · exact .inl (.of_mem (by decide) (raise_next.1 h))

theorem execLsFilter_next {addr mask : Addr48} (h : execLsFilter addr mask s = .next t) :
    Failed .lsFilter s t ∨ Effect (.lsFilter addr mask) s t :=
  served_cases h fun h => .inr (reply_next.1 h)

theorem execLsConnreq_next {hopinc : Byte} {aa : Word} {crc : Crc} {winSize : Byte} {winOffset interval : Half} {ts : Ts}
    {init adv : Addr48} (h : execLsConnreq hopinc aa crc winSize winOffset interval ts init adv s = .next t) :
    Failed .lsConnreq s t ∨ Effect (.lsConnreq hopinc aa crc winSize winOffset interval ts init adv) s t := by
  refine served_cases h fun h => ite_raise_next h (by decide) fun hc h => ite_raise_next h (by decide) fun hm h => ?_
  obtain ⟨hm, hl⟩ : s.mode = .follow ∧ s.lstate = .listening := by simpa using hm
  split at h
  · next hp => exact .inr ⟨not_lt.1 hc, hm, hl, .inr ⟨hp, _, rfl, reply_next.1 h⟩⟩
  · next hp => exact .inr ⟨not_lt.1 hc, hm, hl, .inl ⟨by simpa using hp, reply_next.1 h⟩⟩

theorem execLsUpdate_next {winSize : Byte} {instant interval winOffset : Half}
    (h : execLsUpdate winSize instant interval winOffset s = .next t) :
    Failed .lsUpdate s t ∨ Effect (.lsUpdate winSize instant interval winOffset) s t := by
  refine served_cases h fun h => ?_
  split at h
  · next hl => exact .inr ⟨hl, reply_next.1 h⟩
  · exact .inl (.of_mem (by decide) (raise_next.1 h))

theorem execLsEvent_next (h : execLsEvent s = .next t) : Failed .lsEvent s t ∨ Effect .lsEvent s t := by
  refine served_cases h fun h => ?_
  split at h
  · next hl =>
    dsimp only at h
    split at h
    · next hu => exact .inr ⟨hl, .inl ⟨hu, reply_next.1 h⟩⟩
    · next hu => exact .inr ⟨hl, .inr ⟨by simpa using hu, reply_next.1 h⟩⟩
  · exact .inl (.of_mem (by decide) (raise_next.1 h))

theorem execLsCancel_next (h : execLsCancel s = .next t) : Failed .lsCancel s t ∨ Effect .lsCancel s t := by
  refine served_cases h fun h => ?_
  split at h
  · next hm => exact .inr (.inl ⟨hm, reply_next.1 h⟩)
  · next hm => exact .inr (.inr ⟨hm, reply_next.1 h⟩)

theorem execRtTake_next (h : execRtTake s = .next t) : Failed .rtTake s t ∨ Effect .rtTake s t := by
  refine served_cases h fun h => ?_
  split at h
  · next hp => exact .inr ⟨hp, reply_next.1 h⟩
  · exact .inl (.of_mem (by decide) (raise_next.1 h))

/-- Every operation that answers fails and writes nothing, or has its effect (R300). -/
theorem exec_next {i : Instr} (h : exec i s = .next t) : Failed (opOf i) s t ∨ Effect i s t := by
  cases i with
  | cmI2f => exact execCmI2f_next h
  | cmF2i => exact execCmF2i_next h
  | cmAdv => exact execCmAdv_next h
  | cmHop => exact execCmHop_next h
  | whLoad => exact execWhLoad_next h
  | whStep => exact execWhStep_next h
  | whXor => exact execWhXor_next h
  | whXors => exact execWhXors_next h
  | whRefl => exact execWhRefl_next h
  | crcFwd => exact execCrcFwd_next h
  | crcFwdt => exact execCrcFwdt_next h
  | crcRev => exact execCrcRev_next h
  | crcRev24 => exact execCrcRev24_next h
  | crcChk => exact execCrcChk_next h
  | pbAcq => exact execPbAcq_next h
  | pbWrite => exact execPbWrite_next h
  | pbRssi => exact execPbRssi_next h
  | pbCommit => exact execPbCommit_next h
  | pbAbort => exact execPbAbort_next h
  | pbPoll => exact execPbPoll_next h
  | pbRead => exact execPbRead_next h
  | pbRel => exact execPbRel_next h
  | pbStat => exact execPbStat_next h
  | acClear => exact execAcClear_next h
  | acSee => exact execAcSee_next h
  | acScan => exact execAcScan_next h
  | acGet => exact execAcGet_next h
  | prStart => exact execPrStart_next h
  | prStop => exact execPrStop_next h
  | prPkt => exact execPrPkt_next h
  | tick => exact execTick_next h
  | prReseed => exact execPrReseed_next h
  | prGet => exact execPrGet_next h
  | prSetaa => exact execPrSetaa_next h
  | prGetaa => exact execPrGetaa_next h
  | prSetcv => exact execPrSetcv_next h
  | prGetcv => exact execPrGetcv_next h
  | prSetto => exact execPrSetto_next h
  | lsFollow => exact execLsFollow_next h
  | lsStop => exact execLsStop_next h
  | lsFilter => exact execLsFilter_next h
  | lsConnreq => exact execLsConnreq_next h
  | lsUpdate => exact execLsUpdate_next h
  | lsEvent => exact execLsEvent_next h
  | lsCancel => exact execLsCancel_next h
  | rtTake => exact execRtTake_next h

end Sys2Proof.Machine
end

