-- ==== Sys2Proof/Laws/Memory.lean ====
section
/-! SUPPORT. The laws of buffer memory: what a read gives after a write, and that every write keeps the canonical form. -/

namespace Sys2Proof.Machine

namespace Memory

theorem risingFrom_cons {lo k : Nat} {v : Byte} {m : Memory} :
    risingFrom lo ((k, v) :: m) = true ↔ lo ≤ k ∧ v ≠ unwritten ∧ risingFrom (k + 1) m = true := by
  simp [risingFrom, and_assoc]

theorem risingFrom_mono {lo lo' : Nat} (h : lo' ≤ lo) {m : Memory} (hm : risingFrom lo m = true) :
    risingFrom lo' m = true := by
  cases m with
  | nil => rfl
  | cons c m =>
    obtain ⟨k, v⟩ := c
    rw [risingFrom_cons] at hm ⊢
    exact ⟨h.trans hm.1, hm.2⟩

/-- Below its first offset a memory lists nothing. -/
theorem read_below {lo : Nat} {m : Memory} (hm : risingFrom lo m = true) {a : Nat} (ha : a < lo) : m.read a = unwritten := by
  induction m generalizing lo with
  | nil => rfl
  | cons c m ih =>
    obtain ⟨k, v⟩ := c
    rw [risingFrom_cons] at hm
    have hk : k ≠ a := by omega
    simp only [read, hk, if_false]
    exact ih hm.2.2 (by omega)

theorem read_insert (m : Memory) (a b : Nat) (v : Byte) : (insert a v m).read b = if a = b then v else m.read b := by
  induction m with
  | nil => simp [insert, read]
  | cons c m ih =>
    obtain ⟨k, w⟩ := c
    simp only [insert]
    split
    · simp only [read]
    · split
      · next h =>
        subst h
        by_cases hb : a = b <;> simp [read, hb]
      · next h =>
        simp only [read, ih]
        by_cases hk : k = b
        · have : a ≠ b := by omega
          simp [hk, this]
        · simp [hk]

theorem read_erase {lo : Nat} {m : Memory} (hm : risingFrom lo m = true) (a b : Nat) :
    (erase a m).read b = if a = b then unwritten else m.read b := by
  induction m generalizing lo with
  | nil => simp [erase, read]
  | cons c m ih =>
    obtain ⟨k, w⟩ := c
    rw [risingFrom_cons] at hm
    simp only [erase]
    split
    · next h =>
      subst h
      by_cases hb : a = b
      · subst hb
        simpa using read_below hm.2.2 (Nat.lt_succ_self a)
      · simp [read, hb]
    · next h =>
      simp only [read, ih hm.2.2]
      by_cases hk : k = b
      · have : a ≠ b := by omega
        simp [hk, this]
      · simp [hk]

/-- Reading after a write: the value written at its offset, and what was there before at every other. -/
theorem read_write {m : Memory} (hm : m.wf = true) (a b : Nat) (v : Byte) :
    (m.write a v).read b = if a = b then v else m.read b := by
  unfold write
  split
  · next h => rw [read_erase hm, h]
  · exact read_insert m a b v

theorem insert_rising {lo a : Nat} {v : Byte} {m : Memory} (hv : v ≠ unwritten) (ha : lo ≤ a) (hm : risingFrom lo m = true) :
    risingFrom lo (insert a v m) = true := by
  induction m generalizing lo with
  | nil => simp [insert, risingFrom, hv, ha]
  | cons c m ih =>
    obtain ⟨k, w⟩ := c
    rw [risingFrom_cons] at hm
    simp only [insert]
    split
    · next h =>
      rw [risingFrom_cons, risingFrom_cons]
      exact ⟨ha, hv, h, hm.2⟩
    · split
      · next h =>
        subst h
        exact risingFrom_cons.2 ⟨ha, hv, hm.2.2⟩
      · next h1 h2 => exact risingFrom_cons.2 ⟨hm.1, hm.2.1, ih (by omega) hm.2.2⟩

theorem erase_rising {lo a : Nat} {m : Memory} (hm : risingFrom lo m = true) : risingFrom lo (erase a m) = true := by
  induction m generalizing lo with
  | nil => rfl
  | cons c m ih =>
    obtain ⟨k, w⟩ := c
    rw [risingFrom_cons] at hm
    simp only [erase]
    split
    · exact risingFrom_mono (by omega) hm.2.2
    · exact risingFrom_cons.2 ⟨hm.1, hm.2.1, ih hm.2.2⟩

/-- A write keeps the canonical form. -/
theorem write_wf {m : Memory} (hm : m.wf = true) (a : Nat) (v : Byte) : (m.write a v).wf = true := by
  unfold write
  split
  · exact erase_rising hm
  · next h => exact insert_rising h (Nat.zero_le a) hm

theorem mem_insert {a : Nat} {v : Byte} {m : Memory} {c : Host.Cell} (h : c ∈ insert a v m) : c = (a, v) ∨ c ∈ m := by
  induction m with
  | nil => exact .inl (List.mem_singleton.1 h)
  | cons d m ih =>
    obtain ⟨k, w⟩ := d
    simp only [insert] at h
    split at h
    · simpa using h
    · split at h
      · rcases List.mem_cons.1 h with h | h
        · exact .inl h
        · exact .inr (List.mem_cons_of_mem _ h)
      · rcases List.mem_cons.1 h with h | h
        · exact .inr (h ▸ List.mem_cons_self)
        · exact (ih h).imp_right (List.mem_cons_of_mem _)

theorem mem_erase {a : Nat} {m : Memory} {c : Host.Cell} (h : c ∈ erase a m) : c ∈ m := by
  induction m with
  | nil => simp [erase] at h
  | cons d m ih =>
    obtain ⟨k, w⟩ := d
    simp only [erase] at h
    split at h
    · exact List.mem_cons_of_mem _ h
    · rcases List.mem_cons.1 h with h | h
      · exact h ▸ List.mem_cons_self
      · exact List.mem_cons_of_mem _ (ih h)

/-- A write lists no offset but those listed before and its own. -/
theorem mem_write {m : Memory} {a : Nat} {v : Byte} {c : Host.Cell} (h : c ∈ m.write a v) : c.1 = a ∨ c ∈ m := by
  unfold write at h
  split at h
  · exact .inr (mem_erase h)
  · exact (mem_insert h).imp_left (fun h => by rw [h])

theorem writeAll_wf {m : Memory} (hm : m.wf = true) (off : Nat) (d : List Byte) : (m.writeAll off d).wf = true := by
  induction d generalizing m off with
  | nil => exact hm
  | cons v vs ih => exact ih (write_wf hm off v) (off + 1)

/-- `MemWrite` lists no offset but those listed before and the `n` it writes (R75). -/
theorem mem_writeAll {m : Memory} {off : Nat} {d : List Byte} {c : Host.Cell} (h : c ∈ m.writeAll off d) :
    (off ≤ c.1 ∧ c.1 < off + d.length) ∨ c ∈ m := by
  induction d generalizing m off with
  | nil => exact .inr h
  | cons v vs ih =>
    rcases ih h with h | h
    · left
      simp only [List.length_cons]
      omega
    · rcases mem_write h with h | h
      · left
        simp only [List.length_cons]
        omega
      · exact .inr h

/-- Reading after `MemWrite`: the bytes written in their range, and what was there before everywhere else (R75). -/
theorem read_writeAll {m : Memory} (hm : m.wf = true) (off : Nat) (d : List Byte) (a : Nat) :
    (m.writeAll off d).read a = if off ≤ a ∧ a < off + d.length then d.getD (a - off) 0 else m.read a := by
  induction d generalizing m off with
  | nil =>
    have h : ¬(off ≤ a ∧ a < off + ([] : List Byte).length) := by
      rw [List.length_nil]
      omega
    rw [if_neg h]
    rfl
  | cons v vs ih =>
    simp only [writeAll, ih (write_wf hm off v), read_write hm, List.length_cons]
    by_cases h1 : off + 1 ≤ a ∧ a < off + 1 + vs.length
    · have h2 : off ≤ a ∧ a < off + (vs.length + 1) := by omega
      obtain ⟨k, rfl⟩ : ∃ k, a = off + 1 + k := ⟨a - (off + 1), by omega⟩
      have e : off + 1 + k - off = k + 1 := by omega
      simp [h1, h2, e]
    · by_cases h3 : off = a
      · subst h3
        have h2 : off ≤ off ∧ off < off + (vs.length + 1) := by omega
        simp [h2]
      · have h2 : ¬(off ≤ a ∧ a < off + (vs.length + 1)) := by omega
        rw [if_neg h1, if_neg h3, if_neg h2]

@[simp] theorem readAll_length (m : Memory) (off n : Nat) : (m.readAll off n).length = n := by
  induction n generalizing off with
  | zero => rfl
  | succ n ih => simp [readAll, ih]

/-- Entry `i` of `MemRead(b, off, n)` is the byte at `off + i` (R74). -/
theorem readAll_getD (m : Memory) (off n i : Nat) (d : Byte) :
    (m.readAll off n).getD i d = if i < n then m.read (off + i) else d := by
  induction n generalizing off i with
  | zero => simp [readAll]
  | succ n ih =>
    cases i with
    | zero => simp [readAll]
    | succ i =>
      have e : off + 1 + i = off + (i + 1) := by omega
      simp only [readAll, List.getD_cons_succ, ih, e, Nat.add_lt_add_iff_right]

end Memory

@[simp] theorem Buffer.bytes_length (p : Buffer) : p.bytes.length = p.len.toNat := by simp [Buffer.bytes]

/-- Byte `i` of a buffer's contents is what its memory reads at `i` (R74). -/
theorem Buffer.bytes_getD (p : Buffer) (i : Nat) (d : Byte) :
    p.bytes.getD i d = if i < p.len.toNat then p.data.read i else d := by
  rw [Buffer.bytes, Memory.readAll_getD, Nat.zero_add]

/-- At reset every buffer's memory is in canonical form. -/
theorem State.reset_memory_wf (b : Fin 4) : State.reset.pb[b].data.wf = true := by
  revert b
  decide

end Sys2Proof.Machine
end

