-- ==== Sys2Proof/Tests/Slice0.lean ====
section
/-! SUPPORT. The model's own tests: each is one request on a small state, its expected answer taken from the examples of the rules and
the vectors V1 to V93 of spec/ (named in the comment), and the witnesses that the hypotheses of the obligations can be met. -/

namespace Sys2Proof.Tests

open Sys2Proof Sys2Proof.Machine

set_option Elab.async false

/-! ### Small states -/

/-- The parameter values the vectors of spec/ fix (95_test_vectors.md section 1). -/
def vectorParams : Params :=
  { ticksPerUnit := 12500, minGap := 25000, maxPduLen := 37, probeRetryMax := 4, lenMask := 0xFF, probeA := 0, probeB := 1,
    verifyOnSeed := true }

/-- Reset with the vectors' parameters. -/
def start : State := { State.reset with params := vectorParams, connTimeout := 50000000 }

/-- `PROMISC` mode in a stage, on channel 5, tracking 0x50654321 with the seed of the vectors. -/
def inStage (st : Stage) : State :=
  { start with
    mode := .promisc, lstate := .listening, stage := st, discChan := 5, chan := 5, aa := 0x50654321, aaValid := true
    crcLfsr := 0x123456, crcRaw := 0x6A2C48, crcVerified := true, crcVerify := true }

/-- `PROMISC` mode in `Discovery`, nothing tracked, slot 0 of the cache holding an address seen `n` times. -/
def searching (n : Word) : State :=
  { start with
    mode := .promisc, lstate := .listening, stage := .discovery, discChan := 5, chan := 5
    ac := start.ac.set 0 { valid := true, aa := 0xAF9A9CD4, count := n } }

/-- A full cache, every count 1. -/
def fullCache : State :=
  { searching 1 with ac := Vector.ofFn fun i : Fin 32 => { valid := true, aa := BitVec.ofNat 32 (0x30000000 + i.val), count := 1 } }

/-- The hop-increment stage with the first half of a pair (V66). -/
def probing : State :=
  { inStage .hopIncrementRecovery with
    interval := 24, intervalValid := true, chan := 1, hpFirstTs := 200000000, hpFirstValid := true }

/-- `FOLLOW` mode, `LISTENING`, with a full filter (V81). -/
def following : State :=
  { start with mode := .follow, lstate := .listening, filtAddr := 0xAABBCCDDEEFF, filtMask := 0xFFFFFFFFFFFF }

/-- `FOLLOW` mode, `CONNECTED` on channel 7 with increment 7 (V83). -/
def connected : State :=
  { start with
    mode := .follow, lstate := .connected, stage := .connectionFollow, aa := 0xAF9A9CD4, aaValid := true
    crcRaw := 0x123456, crcLfsr := 0x6A2C48, crcVerified := true, crcVerify := true, interval := 24, intervalValid := true
    hopinc := 7, hopincValid := true, chan := 7, lastPktTs := 1300000 }

/-- A queued buffer. -/
def packet (chan : Byte) (ts : Ts) (aa : Word) (data : List Byte) : Buffer :=
  { Buffer.reset with
    tag := .queued, data := Memory.writeAll [] 0 data, len := toHalf data.length, ts := ts, chan := chan, aa := aa }

/-- A state with one queued buffer. -/
def holding (s : State) (p : Buffer) : State := { s with pb := s.pb.set 0 p, pbq := [0] }

/-- The signature packet of the vectors. -/
def signature (chan : Byte) (ts : Ts) : Buffer := packet chan ts 0x50654321 [0x01, 0x00, 0x60, 0x45, 0x46]

/-- Buffer 0 capturing, with some bytes. -/
def capturing (data : List Byte) : State :=
  { start with
    pb := start.pb.set 0 { packet 0 0 0 data with tag := .capturing, rssiMin := 127, rssiMax := 0x80 } }

/-- All four buffers queued (V51). -/
def fullPool : State :=
  { start with pb := Vector.replicate 4 (packet 5 1000 0xAF9A9CD4 [0x01, 0x00, 0xA9, 0xE4, 0x8F]), pbq := [0, 1, 2, 3] }

/-- What an agent's request is answered. -/
def answered (g : Agent) (i : Instr) (s : State) : Option Response :=
  match issued g i s with
  | .next t => t.lastOn g
  | .fault _ => none
  | .refused _ => none

/-- The state an outcome leaves. -/
def left (r : Result) : State :=
  match r with
  | .next t => t
  | .fault _ => start
  | .refused _ => start

/-- Whether an outcome is a next state. -/
def isNext (r : Result) : Bool :=
  match r with
  | .next _ => true
  | .fault _ => false
  | .refused _ => false

/-- The state after an agent's request. -/
def after (g : Agent) (i : Instr) (s : State) : State := left (issued g i s)

theorem eq_next {r : Result} (h : isNext r = true) : r = .next (left r) := by
  cases r <;> simp_all [isNext, left]

/-! ### Well-formedness (R100, R101: the length field has 16 bits) -/

theorem test_wf_longest : (Instr.pbWrite (List.replicate 65535 0)).Wf := by
  show (List.replicate 65535 (0 : Byte)).length < 65536
  rw [List.length_replicate]
  decide

theorem test_wf_refuses_too_long : ¬(Instr.whXors (List.replicate 65536 0)).Wf := by
  show ¬(List.replicate 65536 (0 : Byte)).length < 65536
  rw [List.length_replicate]
  decide

/-! ### Decoding: words written out from R104, R105 and V92 -/

/-- V92: the fields of `CM_I2F idx=37` bit by bit, `B`, `A`, `OP`. -/
theorem test_decode_cm : decode [.word (0b0000000000000000#16 ++ (0b00100101#8 ++ 0b00000001#8 : BitVec (8 + 8)))] =
    .instr (.cmI2f 37) [] := by decide +kernel

theorem test_decode_cm_hop : decode [.word 0x00071E04] = .instr (.cmHop 30 7) [] := by decide +kernel

/-- V92: `CM_HOP` requires bits 31:24 zero. -/
theorem test_decode_cm_hop_unused : decode [.word 0x01071E04] = .illegal .unusedField [] := by decide +kernel

theorem test_decode_cm_unused : decode [.word 0x00012501] = .illegal .unusedField [] := by decide +kernel

theorem test_decode_wh : decode [.word 0x00020013, .byte 0x8C, .byte 0xD2] = .instr (.whXors [0x8C, 0xD2]) [] := by decide +kernel

/-- V92: `WH_XOR` holds a 16-bit start; bits 31:16 must be 0. -/
theorem test_decode_wh_operand : decode [.word 0x00002512, .word 0x00010000] = .illegal .operandWord [] := by decide +kernel

theorem test_decode_crc : decode [.word 0x00020020, .word 0x00AAAAAA, .byte 0x01, .byte 0x00] =
    .instr (.crcFwd 0xAAAAAA [0x01, 0x00]) [] := by decide +kernel

/-- V92: a 24-bit operand word with bits 31:24 nonzero; the whole request is consumed. -/
theorem test_decode_crc_operand : decode [.word 0x00020020, .word 0x01AAAAAA, .byte 0x01, .byte 0x00] =
    .illegal .operandWord [] := by decide +kernel

theorem test_decode_pb : decode [.word 0x00000533, .word 0x000003E8, .word 0xAF9A9CD4] =
    .instr (.pbCommit 5 1000 0xAF9A9CD4) [] := by decide +kernel

theorem test_decode_ac : decode [.word 0x00000041, .word 0xAF9A9CD4] = .instr (.acSee 0xAF9A9CD4) [] := by decide +kernel

theorem test_decode_pr : decode [.word 0x0000005A, .word 0x000003E8] = .instr (.prSetto 0 1000) [] := by decide +kernel

/-- V92: seven operand words, fields of 24, 16 and 48 bits. -/
theorem test_decode_ls : decode [.word 0x00000763, .word 0xAF9A9CD4, .word 0x02123456, .word 0x00180005, .word 0x000F4240,
      .word 0x33445566, .word 0xEEFF1122, .word 0xAABBCCDD] =
    .instr (.lsConnreq 7 0xAF9A9CD4 0x123456 2 5 24 1000000 0x112233445566 0xAABBCCDDEEFF) [] := by decide +kernel

theorem test_decode_ls_operand :
    decode [.word 0x00000062, .word 0xCCDDEEFF, .word 0x0001AABB, .word 0xFFFFFFFF, .word 0x0000FFFF] =
      .illegal .operandWord [] := by decide +kernel

/-- V92: `OP = 0x00` and `OP = 0x68` are not assigned; one word is consumed. -/
theorem test_decode_unlisted : decode [.word 0x00000000, .word 0x00000003] = .illegal .unknownOp [.word 0x00000003] ∧
    decode [.word 0x00000068] = .illegal .unknownOp [] := by decide +kernel

/-- R101: a request cut short is no request. -/
theorem test_decode_misframed : decode [.word 0x00020013, .byte 0x8C] = .misframed .missingByte ∧
    decode [.word 0x00000041, .byte 0x8C] = .misframed .byteForWord := by decide +kernel

/-- The second encoding of V92 in the opcode table's numbering of bits. -/
theorem test_decode_table_word : decodeTableWord 64 0x0030000000100364 = some (.lsUpdate 3 16 48 0) := by decide +kernel

/-- A request issued as `withFetchWord` issues it is the one the next step runs. -/
theorem test_fetch_word : answered .proc (.cmI2f 37) start = (left (step (start.withFetchWord 32 0x00002501))).lastOn .proc := by
  decide +kernel

/-- V93: the ten words of the response to the fourth `AC_SEE` of V43. -/
theorem test_response_words : ((answered .proc (.acSee 0xAF9A9CD4) (searching 3)).map Response.beats) =
    some [.word 0x00010000, .word 0x00000004, .word 0x00000000, .word 0x00000002, .word 0x00000001, .word 0xAF9A9CD4,
      .word 0x00000000, .word 0x00002905, .word 0x00000000, .word 0x00000000] := by decide +kernel

/-- V93: `PB_POLL` answered `EMPTY` is two words. -/
theorem test_response_empty : (answered .proc .pbPoll start).map Response.beats = some [.word 0x00000007, .word 0x00000000] := by
  decide +kernel

/-! ### Channel Mapper -/

/-- V2. -/
theorem test_cm_i2f : answered .proc (.cmI2f 11) start = some { rb := 2428 } := by decide +kernel

theorem test_cm_i2f_range : answered .proc (.cmI2f 40) start = some { status := .range } := by decide +kernel

/-- V3. -/
theorem test_cm_f2i : answered .cap (.cmF2i 2424) start = some { ra := 10 } := by decide +kernel

theorem test_cm_f2i_odd : answered .cap (.cmF2i 2425) start = some { status := .range } := by decide +kernel

/-- V5. -/
theorem test_cm_adv : answered .proc .cmAdv start = some { words := [0x00272625] } := by decide +kernel

/-- V6. -/
theorem test_cm_hop : answered .proc (.cmHop 36 36) start = some { ra := 35 } := by decide +kernel

theorem test_cm_hop_range : answered .proc (.cmHop 0 37) start = some { status := .range } := by decide +kernel

/-! ### Whitening Engine -/

/-- R143's example: the position is `WIDX[37] = 112`, in the issuer's context only. -/
theorem test_wh_load : (after .proc (.whLoad 37 0) start).whProc = { loaded := true, ch := 37, pos := 112 } ∧
    (after .proc (.whLoad 37 0) start).whCap.loaded = false := by decide +kernel

/-- V15: eight bits of channel 37, the first in bit 0. -/
theorem test_wh_step : answered .cap (.whStep 8) { start with whCap := { loaded := true, ch := 37, pos := 112 } } =
    some { words := [0x8D] } := by decide +kernel

/-- V15: 32 bits from position 2. -/
theorem test_wh_step_word : answered .cap (.whStep 32) { start with whCap := { loaded := true, ch := 37, pos := 2 } } =
    some { words := [0x539ED0AB] } := by decide +kernel

/-- V10. -/
theorem test_wh_xor : answered .cap (.whXor 37 0 [0x01, 0x00, 0xA9, 0xE4, 0x8F]) start =
    some { rb := 5, data := [0x8C, 0xD2, 0xFE, 0x45, 0xB2] } := by decide +kernel

/-- V11: 65535 is position 3. -/
theorem test_wh_xor_start : answered .proc (.whXor 5 65535 [0xAA]) start = some { rb := 1, data := [0xDF] } := by decide +kernel

/-- V16: the second part of a stream, from position 16 past the start. -/
theorem test_wh_xors : answered .cap (.whXors [0xFE, 0x45, 0xB2]) { start with whCap := { loaded := true, ch := 37, pos := 1 } } =
    some { rb := 3, data := [0xA9, 0xE4, 0x8F] } := by decide +kernel

theorem test_wh_xors_not_loaded : answered .proc (.whXors [0x00]) { start with whCap := { loaded := true, ch := 37, pos := 1 } } =
    some { status := .notLoaded } := by decide +kernel

/-- V17. -/
theorem test_wh_refl : answered .cap (.whRefl [0x6B, 0x7D, 0x91, 0x71]) start =
    some { rb := 4, data := [0xD6, 0xBE, 0x89, 0x8E] } := by decide +kernel

/-! ### CRC Engine -/

/-- V25. -/
theorem test_crc_fwd : answered .proc (.crcFwd 0xAAAAAA [0x01, 0x00]) start = some { words := [0x008FE4A9] } := by decide +kernel

/-- V27. -/
theorem test_crc_fwd_longer : answered .proc (.crcFwd 0xAAAAAA [0x42, 0x06, 0xA1, 0xB2, 0xC3, 0xD4, 0xE5, 0xF6]) start =
    some { words := [0x00317840] } := by decide +kernel

/-- V28. -/
theorem test_crc_fwdt : answered .proc (.crcFwdt 0x123456 [0, 1, 2, 3, 4, 5, 6, 7, 8, 9, 10, 11, 12, 13, 14, 15]) start =
    some { words := [0x003B3AFA] } := by decide +kernel

/-- V29. -/
theorem test_crc_rev : answered .proc (.crcRev 0x464560 [0x01, 0x00]) start = some { words := [0x00123456] } := by decide +kernel

/-- V32. -/
theorem test_crc_rev24 : answered .proc (.crcRev24 0x123456) start = some { words := [0x006A2C48] } := by decide +kernel

/-- V33. -/
theorem test_crc_chk : answered .proc (.crcChk 0x6A2C48 [0x0A, 0x03, 0x11, 0x22, 0x33, 0x41, 0x88, 0x1F]) start =
    some { ra := 1, words := [0x001F8841, 0x001F8841] } := by decide +kernel

/-- V33: the CRC bytes in the wrong order. -/
theorem test_crc_chk_order : answered .proc (.crcChk 0xAAAAAA [0x01, 0x00, 0x8F, 0xE4, 0xA9]) start =
    some { ra := 0, words := [0x008FE4A9, 0x00A9E48F] } := by decide +kernel

/-! ### Packet Buffer Pool -/

/-- R182's example. -/
theorem test_pb_acq : answered .cap .pbAcq start = some { ra := 0 } ∧ (after .cap .pbAcq start).pb[0].rssiMax = 0x80 := by
  decide +kernel

/-- V51. -/
theorem test_pb_acq_none : answered .cap .pbAcq fullPool = some { status := .noBuf } ∧ (after .cap .pbAcq fullPool).discards = 1 := by
  decide +kernel

/-- V50. -/
theorem test_pb_write : answered .cap (.pbWrite [0xA9, 0xE4, 0x8F]) (capturing [0x01, 0x00]) = some { rb := 5 } ∧
    (after .cap (.pbWrite [0xA9, 0xE4, 0x8F]) (capturing [0x01, 0x00])).pb[0].bytes = [0x01, 0x00, 0xA9, 0xE4, 0x8F] := by
  decide +kernel

/-- V52: the check fires in the write that makes byte 1 known. -/
theorem test_pb_write_malformed : answered .cap (.pbWrite [0x26, 0x11]) (capturing [0x01]) = some { status := .malformed } ∧
    (after .cap (.pbWrite [0x26, 0x11]) (capturing [0x01])).pb[0].tag = .free := by decide +kernel

/-- V56: -128 on a buffer without samples. -/
theorem test_pb_rssi : (after .cap (.pbRssi 0x80) (capturing [])).pb[0].rssiMin = 0x80 ∧
    (after .cap (.pbRssi 0x80) (capturing [])).pb[0].rssiMax = 0x80 ∧
    (after .cap (.pbRssi 0x80) (capturing [])).pb[0].rssiSum = 0xFFFFFF80 := by decide +kernel

/-- V50. -/
theorem test_pb_commit : answered .cap (.pbCommit 5 1000 0xAF9A9CD4) (capturing [0x01, 0x00, 0xA9, 0xE4, 0x8F]) = some { ra := 0 } ∧
    (after .cap (.pbCommit 5 1000 0xAF9A9CD4) (capturing [0x01, 0x00, 0xA9, 0xE4, 0x8F])).pbq = [0] := by decide +kernel

/-- V53: a stored length that is not the declared one. -/
theorem test_pb_commit_malformed : answered .cap (.pbCommit 5 1 1) (capturing [0x02, 0x01, 0x55, 0x00, 0x00, 0x00, 0x00]) =
    some { status := .malformed } := by decide +kernel

/-- R186's example. -/
theorem test_pb_abort : answered .cap .pbAbort (capturing [0x01]) = some {} ∧
    (after .cap .pbAbort (capturing [0x01])).pb[0].tag = .free := by decide +kernel

/-- R187's example. -/
theorem test_pb_poll : answered .proc .pbPoll { fullPool with pbq := [2, 0] } = some { ra := 2 } := by decide +kernel

/-- V50's buffer: minimum -71, maximum -48, sum -179. -/
theorem test_pb_read : answered .proc (.pbRead 0)
      (holding start { packet 5 1000 0xAF9A9CD4 [0x01, 0x00, 0xA9, 0xE4, 0x8F] with
        rssiMin := 0xB9, rssiMax := 0xD0, rssiSum := 0xFFFFFF4D }) =
    some { rb := 5, words := [0x000003E8, 0xAF9A9CD4, 0x00D0B905, 0xFFFFFF4D], data := [0x01, 0x00, 0xA9, 0xE4, 0x8F] } := by
  decide +kernel

/-- V51: out of order, the order of the others kept. -/
theorem test_pb_rel : (after .proc (.pbRel 2) fullPool).pbq = [0, 1, 3] ∧ (after .proc (.pbRel 2) fullPool).pb[2].tag = .free := by
  decide +kernel

/-- V55: a capturing buffer cannot be released. -/
theorem test_pb_rel_capturing : answered .proc (.pbRel 0) (capturing []) = some { status := .badTag } := by decide +kernel

/-- V51. -/
theorem test_pb_stat : answered .cap .pbStat { fullPool with discards := 2 } = some { ra := 170, rb := 4, words := [2] } := by
  decide +kernel

/-! ### Access-Address Discovery -/

/-- V46. -/
theorem test_ac_clear : (after .proc .acClear fullCache).ac[31].valid = false := by decide +kernel

/-- V43: the fourth sighting promotes. -/
theorem test_ac_see : answered .proc (.acSee 0xAF9A9CD4) (searching 3) =
    some { rb := 1, words := [4, 0], events := [.aa 0xAF9A9CD4 .promoted, .stage .promisc .crcRecovery .listening] } := by
  decide +kernel

/-- V45: in a tie the lowest slot is evicted. -/
theorem test_ac_see_evicts : answered .proc (.acSee 0x40000000) fullCache =
    some { ra := 0, rb := 6, words := [1, 0x30000000] } := by decide +kernel

/-- V40: a packet that is not byte-aligned. -/
theorem test_ac_scan : answered .proc (.acScan 0 [0x0A, 0xB0, 0x98, 0x54, 0xC1, 0x50, 0x49, 0xA7, 0x6C, 0x33, 0x5D, 0x8A, 0x40])
      (searching 1) =
    some { words := [1, 0x50654321], events := [.cand 43 0x50654321 0x01 0x00] } := by decide +kernel

/-- V42: with the last byte cut off the packet is not found. -/
theorem test_ac_scan_short : answered .proc (.acScan 0 [0x0A, 0xB0, 0x98, 0x54, 0xC1, 0x50, 0x49, 0xA7, 0x6C, 0x33, 0x5D, 0x8A])
      (searching 1) = some { words := [0, 0] } := by decide +kernel

/-- R218's example. -/
theorem test_ac_get : answered .proc (.acGet 0) (searching 4) = some { ra := 1, words := [0xAF9A9CD4, 4] } := by decide +kernel

/-! ### Parameter Recovery -/

/-- R231's example. -/
theorem test_pr_start : answered .proc (.prStart 0) start = some { events := [.stage .promisc .discovery .listening] } ∧
    (after .proc (.prStart 0) start).rtPending = true ∧ (after .proc (.prStart 0) start).rtChan = 0 := by decide +kernel

/-- V91: out of domain before the wrong mode. -/
theorem test_pr_start_priority : answered .proc (.prStart 40) (searching 1) = some { status := .range } ∧
    answered .cap (.prStart 40) (searching 1) = some { status := .perm } := by decide +kernel

/-- V60: `CHAN` keeps its value. -/
theorem test_pr_stop : answered .proc .prStop (searching 1) = some { events := [.stage .off .idle .inactive] } ∧
    (after .proc .prStop (searching 1)).chan = 5 := by decide +kernel

/-- V62: the signature packet gives the seed. -/
theorem test_pr_pkt_seed : answered .proc (.prPkt 0)
      (holding { inStage .crcRecovery with crcVerified := false, crcLfsr := 0, crcRaw := 0 } (signature 5 5000)) =
    some { rb := 3, events := [.packet 0 true false 0x50654321 5000, .crc 0x6A2C48 0x123456,
      .stage .promisc .hopIntervalRecovery .listening] } := by decide +kernel

/-- V66: 16 hops give increment 7. -/
theorem test_pr_pkt_increment : answered .proc (.prPkt 0) (holding probing (signature 1 204800700)) =
    some { rb := 5, events := [.packet 0 true true 0x50654321 204800700, .hopinc 7,
      .stage .promisc .connectionFollow .connected] } := by decide +kernel

/-- V70: strictly past the discovery timeout, and not at it. -/
theorem test_tick : answered .proc (.tick 6001) { searching 1 with discTimeout := 1000, stageTs := 5000, stageTsValid := true } =
      some { ra := 1, events := [.timeout .discovery 1001, .reseed .discoveryTimeout, .stage .promisc .discovery .listening] } ∧
    answered .proc (.tick 6000) { searching 1 with discTimeout := 1000, stageTs := 5000, stageTsValid := true } = some {} := by
  decide +kernel

/-- P3: in `FOLLOW` mode the inactivity timeout ends in `OFF`. -/
theorem test_tick_follow : answered .proc (.tick 51300001) connected =
    some { ra := 1, events := [.timeout .inactivity 50000001, .stage .off .idle .inactive] } := by decide +kernel

/-- V61. -/
theorem test_pr_reseed : answered .proc .prReseed (inStage .crcRecovery) =
      some { events := [.reseed .command, .stage .promisc .discovery .listening] } ∧
    (after .proc .prReseed (inStage .crcRecovery)).crcVerify = false := by decide +kernel

/-- R255's example. -/
theorem test_pr_get : answered .proc .prGet start = some { words := [0x00250000, 0, 0, 0, 0, 0, 0, 0, 0] } := by decide +kernel

/-- V61. -/
theorem test_pr_setaa : answered .proc (.prSetaa 0x50654321) (searching 1) =
    some { events := [.aa 0x50654321 .operator, .stage .promisc .crcRecovery .listening] } := by decide +kernel

/-- V61. -/
theorem test_pr_getaa : answered .proc .prGetaa (inStage .crcRecovery) = some { ra := 1, words := [0x50654321] } ∧
    answered .proc .prGetaa start = some { words := [0] } := by decide +kernel

/-- V61. -/
theorem test_pr_setcv : (after .proc (.prSetcv 1) start).crcVerify = true ∧
    answered .proc (.prSetcv 2) start = some { status := .range } := by decide +kernel

/-- V69. -/
theorem test_pr_getcv : answered .proc .prGetcv (inStage .hopIntervalRecovery) = some { ra := 1, rb := 1 } := by decide +kernel

/-- V70. -/
theorem test_pr_setto : (after .proc (.prSetto 1 2000) start).recovTimeout = 2000 ∧
    answered .proc (.prSetto 3 1) start = some { status := .range } := by decide +kernel

/-! ### Connection Link State -/

/-- R271's example. -/
theorem test_ls_follow : answered .proc (.lsFollow 37) start = some { events := [.stage .follow .idle .listening] } ∧
    (after .proc (.lsFollow 37) start).rtChan = 37 := by decide +kernel

/-- V80. -/
theorem test_ls_follow_range : answered .proc (.lsFollow 36) start = some { status := .range } := by decide +kernel

/-- V80. -/
theorem test_ls_stop : answered .proc .lsStop connected = some { events := [.stage .off .idle .inactive] } ∧
    answered .proc .lsStop start = some { status := .badState } := by decide +kernel

/-- R273's example. -/
theorem test_ls_filter : (after .proc (.lsFilter 0xAABBCCDDEEFF 0xFFFFFFFFFFFF) start).filtAddr = 0xAABBCCDDEEFF := by decide +kernel

/-- P3: the request whose advertiser matches. -/
theorem test_ls_connreq :
    answered .proc (.lsConnreq 7 0xAF9A9CD4 0x123456 2 5 24 1000000 0x112233445566 0xAABBCCDDEEFF) following =
      some { ra := 1, rb := 7, events := [.aa 0xAF9A9CD4 .request, .crc 0x123456 0x6A2C48, .interval 24, .hopinc 7,
        .stage .follow .connectionFollow .connPending] } := by decide +kernel

/-- P3: neither address matches. -/
theorem test_ls_connreq_filtered :
    answered .proc (.lsConnreq 7 0x99999999 0x123456 2 5 24 1000000 0x112233445566 0x010203040506) following = some {} := by
  decide +kernel

/-- V83. -/
theorem test_ls_update : answered .proc (.lsUpdate 3 4 48 9) { connected with evcnt := 2 } = some { rb := 2 } ∧
    (after .proc (.lsUpdate 3 4 48 9) { connected with evcnt := 2 }).updWinOffset = 9 := by decide +kernel

/-- V83: the event that reaches the instant applies the update. -/
theorem test_ls_event : answered .cap .lsEvent
      { connected with evcnt := 3, chan := 28, updPending := true, updWinSize := 3, updInstant := 4, updInterval := 48, updWinOffset := 9 } =
    some { ra := 35, rb := 4, words := [1], events := [.update 48 3 9 4] } := by decide +kernel

/-- V84: the counter wraps. -/
theorem test_ls_event_wraps : answered .cap .lsEvent { connected with evcnt := 65535, chan := 36 } =
    some { ra := 6, rb := 0, words := [0] } := by decide +kernel

/-- V85. -/
theorem test_ls_cancel : answered .proc .lsCancel (searching 1) =
      some { ra := 1, events := [.reseed .cancel, .stage .promisc .discovery .listening] } ∧
    answered .proc .lsCancel start = some {} := by decide +kernel

/-- R271's example. -/
theorem test_rt_take : answered .cap .rtTake { start with rtPending := true, rtChan := 37 } = some { ra := 37, rb := 2402 } ∧
    (after .cap .rtTake { start with rtPending := true, rtChan := 37 }).rtPending = false := by decide +kernel

/-- V90: the wrong agent. -/
theorem test_rt_take_perm : answered .proc .rtTake start = some { status := .perm } := by decide +kernel

/-! ### Witnesses: the hypotheses of each obligation can be met together, clause by clause, at boundary values -/

/-- A state with a request waiting. -/
def asked (s : State) (g : Agent) (i : Instr) : State := s.issue g (encode i)

/-- A state with words waiting on `PROC`'s port. -/
def waiting (bs : List Beat) : State := { start with procPort := { reqs := bs, resps := [] } }

theorem test_witness_decode_inverts_encode :
    (Instr.lsConnreq 255 0xFFFFFFFF 0xFFFFFF 255 65535 65535 0xFFFFFFFF 0xFFFFFFFFFFFF 0xFFFFFFFFFFFF).Wf ∧
      (Instr.whXor 255 65535 []).Wf := by decide +kernel

theorem test_witness_decode_only_encodings :
    decode [.word 0x00010031, .byte 0xFF, .byte 7] = .instr (.pbWrite [0xFF]) [.byte 7] := by decide +kernel

theorem test_witness_illegal_unlisted :
    (waiting [.word 0xFFFFFFFF, .word 1]).grant = some (.proc, waiting [.word 0xFFFFFFFF, .word 1]) ∧
    ((waiting [.word 0xFFFFFFFF, .word 1]).port .proc).reqs = .word 0xFFFFFFFF :: [.word 1] ∧
    UnlistedCode (fieldOp 0xFFFFFFFF).toNat := by decide +kernel

/-- The ends of the ranges of R108. -/
theorem test_witness_illegal_codes :
    ∀ c ∈ [0x00, 0x05, 0x0F, 0x15, 0x1F, 0x25, 0x2F, 0x39, 0x3F, 0x44, 0x4F, 0x5B, 0x5F, 0x68, 0xFF], UnlistedCode c := by
  intro c hc
  simp only [List.mem_cons, List.not_mem_nil, or_false] at hc
  unfold UnlistedCode
  omega

theorem test_witness_illegal_operand :
    (waiting [.word 0x00010020, .word 0x01000000, .byte 9]).grant =
      some (.proc, waiting [.word 0x00010020, .word 0x01000000, .byte 9]) ∧
    ((waiting [.word 0x00010020, .word 0x01000000, .byte 9]).port .proc).reqs =
      .word 0x00010020 :: ([0x01000000#32].map .word ++ ([9#8].map .byte ++ [])) ∧
    fieldOp 0x00010020 = Op.crcFwd.code ∧ [0x01000000#32].length = Op.crcFwd.format.words ∧
    [9#8].length = Op.crcFwd.format.dataLength 0x00010020 ∧ OperandWordBroken .crcFwd [0x01000000#32] := by decide +kernel

theorem test_witness_illegal_fields :
    (fieldOp 0x01000004 = Op.cmHop.code ∧ Op.cmHop.format.words = 0 ∧ Op.cmHop.format.dataLength 0x01000004 = 0) ∧
    UnusedFieldSet .cmHop 0x01000004 ∧ OperandWordBroken .lsFilter [0, 0x10000, 0, 0] ∧ OperandWordBroken .whXor [0x10000] ∧
    UnusedFieldSet .cmI2f 0x00010001 ∧ UnusedFieldSet .cmF2i 0x00000102 := by decide +kernel

theorem test_witness_step_runs :
    (asked start .proc (.cmI2f 37)).grant = some (.proc, asked start .proc (.cmI2f 37)) ∧
    decode ((asked start .proc (.cmI2f 37)).port .proc).reqs = .instr (.cmI2f 37) [] := by decide +kernel

theorem test_witness_ports :
    (start.capPort.reqs = [] ∧ start.procPort.reqs = []) ∧
    ((asked start .cap .pbAcq).capPort.reqs ≠ [] ∧ (asked start .cap .pbAcq).procPort.reqs = []) ∧
    ((asked start .proc .pbPoll).capPort.reqs = [] ∧ (asked start .proc .pbPoll).procPort.reqs ≠ []) ∧
    ((asked (asked start .cap .pbAcq) .proc .pbPoll).capPort.reqs ≠ [] ∧
      (asked (asked start .cap .pbAcq) .proc .pbPoll).procPort.reqs ≠ [] ∧
      (asked (asked start .cap .pbAcq) .proc .pbPoll).arbPlan = [.proc]) ∧
    ({ asked (asked start .cap .pbAcq) .proc .pbPoll with arbPlan := [] }.capPort.reqs ≠ [] ∧
      { asked (asked start .cap .pbAcq) .proc .pbPoll with arbPlan := [] }.procPort.reqs ≠ []) ∧
    ((waiting [.word 0x00010031]).grant = some (.proc, waiting [.word 0x00010031]) ∧
      decode ((waiting [.word 0x00010031]).port .proc).reqs = .misframed .missingByte) := by decide +kernel

theorem test_witness_triple_invariant :
    (asked (holding probing (signature 1 204800700)) .proc (.prPkt 0)).rowsHolding = 1 ∧
    step (asked (holding probing (signature 1 204800700)) .proc (.prPkt 0)) =
      .next (left (step (asked (holding probing (signature 1 204800700)) .proc (.prPkt 0)))) :=
  ⟨by decide +kernel, eq_next (by decide +kernel)⟩

theorem test_witness_pool_invariant :
    (asked (capturing [0x01, 0x00, 0xA9, 0xE4, 0x8F]) .cap (.pbCommit 5 1 1)).PoolWf ∧
    step (asked (capturing [0x01, 0x00, 0xA9, 0xE4, 0x8F]) .cap (.pbCommit 5 1 1)) =
      .next (left (step (asked (capturing [0x01, 0x00, 0xA9, 0xE4, 0x8F]) .cap (.pbCommit 5 1 1)))) :=
  ⟨by decide +kernel, eq_next (by decide +kernel)⟩

theorem test_witness_cache_invariant :
    (asked fullCache .proc (.acSee 7)).CacheWf ∧
    step (asked fullCache .proc (.acSee 7)) = .next (left (step (asked fullCache .proc (.acSee 7)))) :=
  ⟨by decide +kernel, eq_next (by decide +kernel)⟩

theorem test_witness_value_invariant :
    (asked (holding probing (signature 1 204800700)) .proc (.prPkt 0)).rowsHolding = 1 ∧
    (asked (holding probing (signature 1 204800700)) .proc (.prPkt 0)).ValuesWf ∧
    step (asked (holding probing (signature 1 204800700)) .proc (.prPkt 0)) =
      .next (left (step (asked (holding probing (signature 1 204800700)) .proc (.prPkt 0)))) :=
  ⟨by decide +kernel, by decide +kernel, eq_next (by decide +kernel)⟩

theorem test_witness_wrong_agent :
    (¬Permitted (start.as .proc).agent (opOf .rtTake) ∧ ¬Permitted (start.as .cap).agent (opOf .prStop)) ∧
    (Permitted (start.as .cap).agent (opOf .rtTake) ∧ exec .rtTake (start.as .cap) = .next (after .cap .rtTake start) ∧
      (after .cap .rtTake start).lastOn (start.as .cap).agent = some (errorResponse .empty)) :=
  ⟨by decide +kernel, by decide +kernel, eq_next (by decide +kernel), by decide +kernel⟩

theorem test_witness_statuses :
    exec .pbAcq (start.as .cap) = .next (after .cap .pbAcq start) ∧ Status.malformed ∈ statusesOf .pbCommit :=
  ⟨eq_next (by decide +kernel), by decide +kernel⟩

theorem test_witness_raise :
    (exec .pbAbort (start.as .cap) = .next (after .cap .pbAbort start) ∧
      (after .cap .pbAbort start).lastOn (start.as .cap).agent = some (errorResponse .badTag)) ∧
    (exec .pbAcq (fullPool.as .cap) = .next (after .cap .pbAcq fullPool) ∧
      (after .cap .pbAcq fullPool).lastOn (fullPool.as .cap).agent = some (errorResponse .noBuf)) ∧
    (exec (.pbCommit 0 0 0) ((capturing []).as .cap) = .next (after .cap (.pbCommit 0 0 0) (capturing [])) ∧
      (after .cap (.pbCommit 0 0 0) (capturing [])).lastOn ((capturing []).as .cap).agent = some (errorResponse .malformed)) :=
  ⟨⟨eq_next (by decide +kernel), by decide +kernel⟩, ⟨eq_next (by decide +kernel), by decide +kernel⟩,
    ⟨eq_next (by decide +kernel), by decide +kernel⟩⟩

theorem test_witness_range :
    (Permitted (start.as .proc).agent (opOf (.prStart 40)) ∧ outOfDomain (.prStart 40)) ∧
    (Permitted (start.as .proc).agent (opOf (.prStart 39)) ∧ ¬outOfDomain (.prStart 39)) :=
  ⟨⟨by decide +kernel, show 39 < (40 : Byte).toNat by decide⟩, ⟨by decide +kernel, show ¬39 < (39 : Byte).toNat by decide⟩⟩

theorem test_witness_malformed :
    (capturing [0x01]).PoolWf ∧ exec (.pbWrite [0x26]) (capturing [0x01]) = .next (left (exec (.pbWrite [0x26]) (capturing [0x01]))) ∧
    (left (exec (.pbWrite [0x26]) (capturing [0x01]))).lastOn (capturing [0x01]).agent = some (errorResponse .malformed) ∧
    (errorResponse .malformed).status = .malformed :=
  ⟨by decide +kernel, eq_next (by decide +kernel), by decide +kernel, rfl⟩

theorem test_witness_channel_mapper :
    (39 < (40 : Byte).toNat ∧ (37 : Byte).toNat = 37 ∧ (38 : Byte).toNat = 38 ∧ (39 : Byte).toNat = 39 ∧ (10 : Byte).toNat < 11 ∧
      11 ≤ (11 : Byte).toNat ∧ (36 : Byte).toNat ≤ 36) ∧
    ((2401 : Half).toNat < 2402 ∧ 2480 < (2481 : Half).toNat ∧ (2403 : Half).toNat % 2 = 1 ∧ (2402 : Half).toNat = 2402 ∧
      (2426 : Half).toNat = 2426 ∧ (2480 : Half).toNat = 2480) ∧
    (2402 < (2404 : Half).toNat ∧ (2424 : Half).toNat < 2426 ∧ (2424 : Half).toNat % 2 = 0) ∧
    (2426 < (2428 : Half).toNat ∧ (2478 : Half).toNat < 2480 ∧ (2478 : Half).toNat % 2 = 0) ∧
    (36 < (37 : Byte).toNat ∧ (36 : Byte).toNat ≤ 36) := by decide +kernel

theorem test_witness_channel_round_trip :
    (39 : Byte).toNat ≤ 39 ∧ 2402 ≤ (2402 : Half).toNat ∧ (2480 : Half).toNat ≤ 2480 ∧ (2480 : Half).toNat % 2 = 0 := by
  decide +kernel

theorem test_witness_lfsr : (39 : Byte).toNat ≤ 39 ∧ (1 : Lfsr) ≠ 0 := by decide +kernel

theorem test_witness_wh_xor :
    (39 < (40 : Byte).toNat ∧ 263 < (List.replicate 264 (0 : Byte)).length) ∧
    ((39 : Byte).toNat ≤ 39 ∧ (List.replicate 263 (0 : Byte)).length ≤ 263) ∧
    ((39 : Byte).toNat ≤ 39 ∧ [1#8].length + [2#8, 3#8].length ≤ 263 ∧ (65527 : Half).toNat + 8 * [1#8].length < 65536) := by
  decide +kernel

theorem test_witness_wh_stream :
    ((start.as .cap).agent = .cap ∧ (start.as .proc).agent = .proc) ∧ (39 < (40 : Byte).toNat ∧ (39 : Byte).toNat ≤ 39) ∧
    ((0 : Byte).toNat < 1 ∧ 32 < (33 : Byte).toNat) ∧
    (1 ≤ (1 : Byte).toNat ∧ (32 : Byte).toNat ≤ 32 ∧ (start.as .proc).whc.loaded = false) ∧
    (((after .proc (.whLoad 39 65535) start).as .proc).whc.loaded = true) ∧
    (263 < (List.replicate 264 (0 : Byte)).length ∧ (List.replicate 263 (0 : Byte)).length ≤ 263) := by decide +kernel

theorem test_witness_wh_block :
    (39 : Byte).toNat ≤ 39 ∧ (List.replicate 100 (0 : Byte)).length + (List.replicate 163 (0 : Byte)).length ≤ 263 := by
  decide +kernel

theorem test_witness_byte_strings :
    263 < (List.replicate 264 (0 : Byte)).length ∧ (List.replicate 263 (0 : Byte)).length ≤ 263 ∧ ([] : List Byte).length ≤ 263 := by
  decide +kernel

theorem test_witness_crc_chk :
    [1#8, 2#8].length < 3 ∧ 263 < (List.replicate 264 (0 : Byte)).length ∧ (List.replicate 260 (0 : Byte)).length + 3 ≤ 263 ∧
      ([] : List Byte).length + 3 ≤ 263 := by decide +kernel

theorem test_witness_pb_acq :
    ((capturing []).agent = .cap ∧ (capturing []).pb[(0 : Fin 4)].tag = .capturing) ∧
    (fullPool.agent = .cap ∧ fullPool.NoneCapturing ∧ ∀ b : Fin 4, fullPool.pb[b].tag ≠ .free) ∧
    (start.agent = .cap ∧ start.NoneCapturing ∧ start.pb[(0 : Fin 4)].tag = .free) ∧
    ({ fullPool with pb := fullPool.pb.set 3 Buffer.reset }.NoneCapturing ∧
      { fullPool with pb := fullPool.pb.set 3 Buffer.reset }.pb[(3 : Fin 4)].tag = .free ∧
      ∀ a : Fin 4, a < 3 → { fullPool with pb := fullPool.pb.set 3 Buffer.reset }.pb[a].tag ≠ .free) ∧
    (capturing []).CapturingAt 0 := by decide +kernel

theorem test_witness_pb_write :
    263 < (List.replicate 264 (0 : Byte)).length ∧ start.NoneCapturing ∧
    ((capturing (List.replicate 263 0)).agent = .cap ∧ [1#8].length ≤ 263 ∧ (capturing (List.replicate 263 0)).CapturingAt 0 ∧
      263 < (capturing (List.replicate 263 0)).pb[(0 : Fin 4)].len.toNat + [1#8].length) ∧
    ((capturing [0x01]).CapturingAt 0 ∧ 2 ≤ (capturing [0x01]).pb[(0 : Fin 4)].len.toNat + [0x26#8].length ∧
      (capturing [0x01]).params.maxPduLen <
        (((capturing [0x01]).pb[(0 : Fin 4)].bytes ++ [0x26#8]).getD 1 0 &&& (capturing [0x01]).params.lenMask).toNat) ∧
    ((capturing [0x01]).pb[(0 : Fin 4)].data.wf = true ∧ (capturing [0x01]).CapturingAt 0 ∧
      (capturing [0x01]).pb[(0 : Fin 4)].len.toNat + [0x25#8].length ≤ 263 ∧
      (((capturing [0x01]).pb[(0 : Fin 4)].bytes ++ [0x25#8]).getD 1 0 &&& (capturing [0x01]).params.lenMask).toNat ≤
        (capturing [0x01]).params.maxPduLen) := by decide +kernel

theorem test_witness_pb_commit :
    39 < (40 : Byte).toNat ∧ (start.agent = .cap ∧ (39 : Byte).toNat ≤ 39 ∧ start.NoneCapturing) ∧
    ((capturing [1, 0, 2, 3]).CapturingAt 0 ∧ (capturing [1, 0, 2, 3]).pb[(0 : Fin 4)].len.toNat < 5) ∧
    ((capturing [1, 0, 2, 3, 4, 5]).CapturingAt 0 ∧ (capturing [1, 0, 2, 3, 4, 5]).pb[(0 : Fin 4)].len.toNat ≠
      2 + ((capturing [1, 0, 2, 3, 4, 5]).pb[(0 : Fin 4)].data.read 1 &&& (capturing []).params.lenMask).toNat + 3) ∧
    ((capturing [1, 0, 2, 3, 4]).CapturingAt 0 ∧ 5 ≤ (capturing [1, 0, 2, 3, 4]).pb[(0 : Fin 4)].len.toNat ∧
      (capturing [1, 0, 2, 3, 4]).pb[(0 : Fin 4)].len.toNat =
        2 + ((capturing [1, 0, 2, 3, 4]).pb[(0 : Fin 4)].data.read 1 &&& (capturing []).params.lenMask).toNat + 3) := by
  decide +kernel

theorem test_witness_pb_readers :
    ((start.as .proc).agent = .proc ∧ (start.as .proc).pbq = []) ∧ ((fullPool.as .proc).pbq = 0 :: [1, 2, 3]) ∧
    3 < (4 : Byte).toNat ∧ ((3 : Byte).toNat = (3 : Fin 4).val ∧ start.pb[(3 : Fin 4)].tag ≠ .queued) ∧
    ((3 : Byte).toNat = (3 : Fin 4).val ∧ (fullPool.as .proc).pb[(3 : Fin 4)].tag = .queued ∧ (fullPool.as .proc).agent = .proc) := by
  decide +kernel

theorem test_witness_capture_reads_back :
    start.PoolWf ∧ start.NoneCapturing ∧ (∃ a : Fin 4, start.pb[a].tag = .free) ∧ (39 : Byte).toNat ≤ 39 ∧
    (5 ≤ ([0x01#8] ++ [0x00#8, 1, 2, 3]).length ∧ ([0x01#8] ++ [0x00#8, 1, 2, 3]).length ≤ 263 ∧
      ([0x01#8] ++ [0x00#8, 1, 2, 3]).length = 2 + (([0x01#8] ++ [0x00#8, 1, 2, 3]).getD 1 0 &&& start.params.lenMask).toNat + 3 ∧
      (([0x01#8] ++ [0x00#8, 1, 2, 3]).getD 1 0 &&& start.params.lenMask).toNat ≤ start.params.maxPduLen) ∧
    (([0x02#8, 37] ++ List.replicate 40 0).length =
        2 + (([0x02#8, 37] ++ List.replicate 40 0).getD 1 0 &&& start.params.lenMask).toNat + 3 ∧
      (([0x02#8, 37] ++ List.replicate 40 0).getD 1 0 &&& start.params.lenMask).toNat ≤ start.params.maxPduLen) := by decide +kernel

theorem test_witness_buffer_life :
    (exec .pbAcq start = .next (left (exec .pbAcq start)) ∧
      start.pb[(0 : Fin 4)].tag ≠ (left (exec .pbAcq start)).pb[(0 : Fin 4)].tag) ∧
    (exec (.pbWrite [0x26]) (capturing [0x01]) = .next (left (exec (.pbWrite [0x26]) (capturing [0x01]))) ∧
      (capturing [0x01]).pb[(0 : Fin 4)].tag = .capturing ∧
      (left (exec (.pbWrite [0x26]) (capturing [0x01]))).pb[(0 : Fin 4)].tag = .free ∧ opOf (.pbWrite [0x26]) ≠ .pbAbort) :=
  ⟨⟨eq_next (by decide +kernel), by decide +kernel⟩, ⟨eq_next (by decide +kernel), by decide +kernel⟩⟩

theorem test_witness_ac_see :
    (((inStage .crcRecovery).as .proc).agent = .proc ∧ ((inStage .crcRecovery).as .proc).stage ≠ .discovery) ∧
    (((searching 2).as .proc).stage = .discovery ∧ (searching 2).ac[(0 : Fin 32)].valid = true ∧
      (searching 2).ac[(0 : Fin 32)].aa = 0xAF9A9CD4 ∧
      (BitVec.ofNat 32 (min ((searching 2).ac[(0 : Fin 32)].count.toNat + 1) (2 ^ 32 - 1))).toNat ≤ 3) ∧
    (3 < (BitVec.ofNat 32 (min ((searching 3).ac[(0 : Fin 32)].count.toNat + 1) (2 ^ 32 - 1))).toNat) ∧
    ((∀ i : Fin 32, ¬((searching 2).ac[i].valid = true ∧ (searching 2).ac[i].aa = 7)) ∧
      (searching 2).ac[(1 : Fin 32)].valid = false ∧ ∀ i : Fin 32, i < 1 → (searching 2).ac[i].valid = true) ∧
    ((∀ i : Fin 32, fullCache.ac[i].valid = true ∧ fullCache.ac[i].aa ≠ 7) ∧
      (∀ i : Fin 32, fullCache.ac[(0 : Fin 32)].count.toNat ≤ fullCache.ac[i].count.toNat) ∧
      ∀ i : Fin 32, i < 0 → fullCache.ac[(0 : Fin 32)].count.toNat < fullCache.ac[i].count.toNat) := by decide +kernel

theorem test_witness_fourth_sighting :
    fullCache.stage = .discovery ∧ ∀ i : Fin 32, ¬(fullCache.ac[i].valid = true ∧ fullCache.ac[i].aa = 7) := by decide +kernel

theorem test_witness_ac_scan :
    ((searching 1).as .proc).agent = .proc ∧ 39 < (40 : Byte).toNat ∧ 263 < (List.replicate 264 (0 : Byte)).length ∧
    (39 : Byte).toNat ≤ 39 ∧ (List.replicate 263 (0 : Byte)).length ≤ 263 ∧ (inStage .crcRecovery).stage ≠ .discovery ∧
    (searching 1).stage = .discovery := by decide +kernel

theorem test_witness_ac_get :
    ((searching 1).as .proc).agent = .proc ∧ 31 < (32 : Byte).toNat ∧ (31 : Byte).toNat = (31 : Fin 32).val ∧
    (searching 1).ac[(31 : Fin 32)].valid = false ∧ fullCache.ac[(31 : Fin 32)].valid = true := by decide +kernel

theorem test_witness_pr_start_stop :
    (start.as .proc).agent = .proc ∧ 39 < (40 : Byte).toNat ∧ (39 : Byte).toNat ≤ 39 ∧ (searching 1).mode ≠ .off ∧ start.mode = .off ∧
    start.mode ≠ .promisc ∧ (searching 1).mode = .promisc := by decide +kernel

theorem test_witness_packet_gates :
    ((inStage .idle).as .proc).agent = .proc ∧ 3 < (4 : Byte).toNat ∧ (3 : Byte).toNat = (3 : Fin 4).val ∧
    start.pb[(3 : Fin 4)].tag ≠ .queued ∧
    ((holding start (signature 0 0)).pb[(0 : Fin 4)].tag = .queued ∧ (holding start (signature 0 0)).stage = .idle) ∧
    ((holding (searching 1) (signature 0 0)).stage = .discovery) ∧
    ((holding (inStage .crcRecovery) (packet 0 0 1 [1, 0, 2, 3, 4])).stage ≠ .idle ∧
      (holding (inStage .crcRecovery) (packet 0 0 1 [1, 0, 2, 3, 4])).pb[(0 : Fin 4)].aa ≠ (inStage .crcRecovery).aa) ∧
    ((inStage .crcRecovery).aaValid = true ∧ (signature 0 0).aa = (inStage .crcRecovery).aa ∧
      (packet 0 0 0x50654321 [5, 0, 2, 3, 4]).bytes = [5, 0, 2, 3, 4]) ∧
    ((inStage .hopIntervalRecovery).stage.SeedKnown ∧ (inStage .hopIntervalRecovery).crcVerify = true ∧
      crcOk (inStage .hopIntervalRecovery).crcLfsr (packet 0 0 0x50654321 [1, 0, 0, 0, 0]).bytes = false) ∧
    ((inStage .connectionFollow).stage = .connectionFollow ∧ (signature 0 0).passesGates (inStage .connectionFollow)) := by
  decide +kernel

/-- No byte string but the one with header `05 00` is meant: its first byte is not `01`. -/
theorem test_witness_packet_no_signature :
    ∀ c0 c1 c2 : Byte, (packet 0 0 0x50654321 [5, 0, 2, 3, 4]).bytes ≠ [0x01#8, 0x00#8, c0, c1, c2] := by
  intro c0 c1 c2
  rw [show (packet 0 0 0x50654321 [5, 0, 2, 3, 4]).bytes = [5, 0, 2, 3, 4] by decide +kernel]
  simp

theorem test_witness_seed_recovered :
    ((holding (inStage .crcRecovery) (signature 5 9)).as .proc).agent = .proc ∧ (0 : Byte).toNat = (0 : Fin 4).val ∧
    (holding (inStage .crcRecovery) (signature 5 9)).pb[(0 : Fin 4)].tag = .queued ∧
    (holding (inStage .crcRecovery) (signature 5 9)).stage = .crcRecovery ∧
    (holding (inStage .crcRecovery) (signature 5 9)).aaValid = true ∧
    (holding (inStage .crcRecovery) (signature 5 9)).pb[(0 : Fin 4)].aa = (holding (inStage .crcRecovery) (signature 5 9)).aa ∧
    (holding (inStage .crcRecovery) (signature 5 9)).pb[(0 : Fin 4)].bytes = [0x01, 0x00, 0x60, 0x45, 0x46] := by decide +kernel

/-- V63: gap 1900 is short; 11100000 is a new estimate of 24, a match of 24, and a fifth match of 24. -/
theorem test_witness_interval_step :
    (signature 5 0).passesGates (inStage .hopIntervalRecovery) ∧ (inStage .hopIntervalRecovery).aaValid = true ∧
    (24999 : Ts).toNat < vectorParams.minGap ∧ vectorParams.minGap ≤ (25000 : Ts).toNat ∧ vectorParams.minGap ≤ (11100000 : Ts).toNat ∧
    min (rdiv (11100000 : Ts).toNat (37 * vectorParams.ticksPerUnit)) 65535 = 24 ∧ 24 ≠ (0 : Half).toNat ∧ 24 = (24 : Half).toNat ∧
    (3 : Byte) ≠ 4 := by decide +kernel

/-- Six visits of channel 5, one cycle of 37 events apart (P2). -/
def visits : List Buffer :=
  [signature 5 34300000, signature 5 45400000, signature 5 56500000, signature 5 67600000, signature 5 78700000, signature 5 89800000]

/-- The hop-interval stage after the missed visit of P2: the estimate is 48. -/
def missed : State := { inStage .hopIntervalRecovery with hiPrevTs := 23200000, hiSmallest := 22200000, hiEst := 48 }

theorem test_witness_interval_converges :
    missed.stage = .hopIntervalRecovery ∧ missed.aaValid = true ∧ visits.length = 6 ∧ (∀ p ∈ visits, p.passesGates missed) ∧
    24 ≠ 0 ∧ 24 ≠ missed.hiEst.toNat := by decide +kernel

theorem test_witness_interval_agreeing : agreeing missed.params 24 missed.hiPrevTs missed.hiSmallest visits := by
  unfold visits
  simp only [agreeing, and_true]
  decide +kernel

theorem test_witness_increment_step :
    ((holding probing (signature 0 1)).as .proc).agent = .proc ∧ probing.aaValid = true ∧ (signature 1 0).passesGates probing ∧
    (signature 0 1).chan = probing.params.probeA ∧
    ((1 : Int) = ((probing.params.probeB.toNat : Int) - probing.params.probeA.toNat) % 37) ∧
    (rdiv ((204800700 : Ts) - probing.hpFirstTs).toNat (probing.interval.toNat * probing.params.ticksPerUnit) % 37 = 16) ∧
    (rdiv ((211100000 : Ts) - probing.hpFirstTs).toNat (probing.interval.toNat * probing.params.ticksPerUnit) % 37 = 0) ∧
    ((signature 1 0).chan ≠ probing.params.probeA ∧ (signature 1 0).chan = probing.params.probeB ∧ probing.hpFirstValid = true) ∧
    (probing.params.probeRetryMax < ((4 : Byte) + 1).toNat ∧ ((3 : Byte) + 1).toNat ≤ probing.params.probeRetryMax) ∧
    ((signature 7 0).chan ≠ probing.params.probeA ∧ (signature 7 0).chan ≠ probing.params.probeB) := by decide +kernel

/-- V66: 16 events apart, 700 ticks late, increment 7. -/
theorem test_witness_increment_recovered :
    probing.params.Wf ∧ probing.stage = .hopIncrementRecovery ∧ probing.aaValid = true ∧
    (signature 0 200000000).passesGates probing ∧ (signature 1 204800700).passesGates probing ∧
    (signature 0 200000000).chan = probing.params.probeA ∧ (signature 1 204800700).chan = probing.params.probeB ∧
    probing.interval ≠ 0 ∧ 300000 = probing.interval.toNat * probing.params.ticksPerUnit ∧
    16 * 300000 ≤ ((204800700 : Ts) - 200000000).toNat + 300000 / 2 ∧
    ((204800700 : Ts) - 200000000).toNat + 300000 / 2 < (16 + 1) * 300000 ∧
    (probing.params.probeA.toNat + 16 * 7) % 37 = probing.params.probeB.toNat := by decide +kernel

theorem test_witness_reports :
    (start.as .proc).agent = .proc ∧ (inStage .crcRecovery).aaValid = true ∧ start.aaValid = false := by decide +kernel

theorem test_witness_setters :
    1 < (2 : Byte).toNat ∧ (1 : Byte).toNat ≤ 1 ∧ 2 < (3 : Byte).toNat ∧ (0 : Byte).toNat = 0 ∧ (1 : Byte).toNat = 1 ∧
    (2 : Byte).toNat = 2 := by decide +kernel

/-- A discovery timeout of 1000 from time 5000: 6000 is not past it, 6001 is; an inactivity timeout of 50000000 likewise. -/
theorem test_witness_tick :
    (start.as .proc).agent = .proc ∧ start.mode = .off ∧ ((searching 1).mode ≠ .off ∧ (searching 1).stage = .discovery) ∧
    ((1000 : Ts) ≠ 0 ∧ (1000 : Ts) < 6001 - 5000 ∧ (6000 : Ts) - 5000 ≤ 1000) ∧
    ((inStage .crcRecovery).mode ≠ .off ∧ (inStage .crcRecovery).stage = .crcRecovery) ∧
    (connected.stage = .connectionFollow ∧ connected.connTimeout < 51300001 - connected.lastPktTs ∧
      51300000 - connected.lastPktTs ≤ connected.connTimeout ∧ connected.mode = .follow) ∧
    ((inStage .connectionFollow).mode = .promisc) ∧ (following.mode ≠ .off ∧ following.stage = .idle) := by decide +kernel

theorem test_witness_ls_follow :
    (36 : Byte).toNat < 37 ∧ 39 < (40 : Byte).toNat ∧ (37 ≤ (37 : Byte).toNat ∧ (39 : Byte).toNat ≤ 39) ∧ following.mode ≠ .off ∧
    start.mode = .off ∧ start.mode ≠ .follow ∧ following.mode = .follow ∧ (searching 1).mode = .promisc := by decide +kernel

theorem test_witness_ls_connreq :
    36 < (37 : Byte).toNat ∧ (36 : Byte).toNat ≤ 36 ∧ start.mode ≠ .follow ∧ following.mode = .follow ∧
    following.lstate = .listening ∧
    (((0x112233445566 : Addr48) ^^^ following.filtAddr) &&& following.filtMask ≠ 0 ∧
      ((0x0ABBCCDDEEFF : Addr48) ^^^ following.filtAddr) &&& following.filtMask ≠ 0) ∧
    ((0xAABBCCDDEEFF : Addr48) ^^^ following.filtAddr) &&& following.filtMask = 0 := by decide +kernel

theorem test_witness_ls_update_event :
    (connected.as .cap).agent = .cap ∧ (connected.as .proc).agent = .proc ∧ start.lstate ≠ .connected ∧ connected.lstate = .connected ∧
    (7 : Byte) = BitVec.ofNat 8 ((({ connected with chan := 0 } : State).chan.toNat + connected.hopinc.toNat) % 37) ∧
    ({ connected with evcnt := 65535, updPending := true, updInstant := 0 }.updPending = true ∧
      ({ connected with evcnt := 65535 }.evcnt + 1 : Half) = 0) ∧
    connected.updPending = false := by decide +kernel

theorem test_witness_hop_sequence :
    (connected.lstate = .connected ∧ connected.chan.toNat ≤ 36) ∧ 1 ≤ connected.hopinc.toNat ∧ connected.hopinc.toNat ≤ 36 ∧
    repeated .cap .lsEvent 1 connected = .next (left (repeated .cap .lsEvent 1 connected)) ∧
    repeated .cap .lsEvent 2 connected = .next (left (repeated .cap .lsEvent 2 connected)) :=
  ⟨by decide +kernel, by decide +kernel, by decide +kernel, eq_next (by decide +kernel), eq_next (by decide +kernel)⟩

theorem test_witness_update_instant :
    connected.lstate = .connected ∧ issued .proc (.lsUpdate 3 4 48 9) connected = .next (after .proc (.lsUpdate 3 4 48 9) connected) ∧
    4 = ((4 : Half) - connected.evcnt - 1).toNat + 1 :=
  ⟨by decide +kernel, eq_next (by decide +kernel), by decide +kernel⟩

theorem test_witness_rt_take :
    start.agent = .cap ∧ start.rtPending = false ∧ { start with rtPending := true, rtChan := 39 }.rtChan.toNat ≤ 39 := by
  decide +kernel

/-- Two states that differ in values without a flag. -/
theorem test_witness_guarded_values :
    (searching 1).rowsHolding = 1 ∧ (searching 1).ValuesWf ∧ { searching 1 with aa := 5, interval := 7 }.ValuesWf ∧
    (searching 1).shown = { searching 1 with aa := 5, interval := 7 }.shown ∧ searching 1 ≠ { searching 1 with aa := 5, interval := 7 } ∧
    exec .prReseed ((searching 1).as .proc) = .next (after .proc .prReseed (searching 1)) :=
  ⟨by decide +kernel, by decide +kernel, by decide +kernel, by decide +kernel, by decide +kernel, eq_next (by decide +kernel)⟩

theorem test_witness_transitions :
    (start.as .proc).rowsHolding = 1 ∧ exec (.prStart 0) (start.as .proc) = .next (after .proc (.prStart 0) start) :=
  ⟨by decide +kernel, eq_next (by decide +kernel)⟩

theorem test_witness_write_rights :
    ((capturing [1]).agent = .cap ∧ exec .pbAcq start = .next (left (exec .pbAcq start)) ∧ start.pb[(3 : Fin 4)].tag ≠ .capturing ∧
      (left (exec .pbAcq start)).pb[(3 : Fin 4)].tag ≠ .capturing) ∧
    (opOf .pbAcq ≠ .lsEvent) ∧
    ((fullPool.as .proc).agent = .proc ∧ exec (.pbRel 2) (fullPool.as .proc) = .next (after .proc (.pbRel 2) fullPool)) :=
  ⟨⟨by decide +kernel, eq_next (by decide +kernel), by decide +kernel, by decide +kernel⟩, by decide +kernel,
    ⟨by decide +kernel, eq_next (by decide +kernel)⟩⟩

end Sys2Proof.Tests
end

section
/-! PROOFS. What a response does to the two ports; which port a step serves and what the step then does, one equation for each case
of `State.grant` and of `step` (R5, R6, R100, R101; logs 4, 5, 6), with the two obligations they settle. -/

namespace Sys2Proof.Machine

/-! ### The ports after a response -/

@[simp] theorem State.setPort_port_same (s : State) (g : Agent) (p : Port) : (s.setPort g p).port g = p := by
  cases g with
  | cap => rfl
  | proc => rfl

@[simp] theorem State.setPort_port_other (s : State) (g : Agent) (p : Port) :
    (s.setPort g p).port (otherAgent g) = s.port (otherAgent g) := by
  cases g with
  | cap => rfl
  | proc => rfl

@[simp] theorem State.answer_port_issuer (s : State) (r : Response) :
    (s.answer r).port s.agent = { reqs := (s.port s.agent).reqs, resps := (s.port s.agent).resps ++ [r] } :=
  s.setPort_port_same ..

@[simp] theorem State.answer_port_other (s : State) (r : Response) :
    (s.answer r).port (otherAgent s.agent) = s.port (otherAgent s.agent) :=
  s.setPort_port_other ..

section Cases

variable {s t : State} {g : Agent}

/-! ### The grant -/

theorem grant_idle (hc : s.capPort.reqs = []) (hp : s.procPort.reqs = []) : s.grant = none := by
  simp [State.grant, hc, hp]

theorem grant_cap (hc : s.capPort.reqs ≠ []) (hp : s.procPort.reqs = []) : s.grant = some (.cap, s) := by
  obtain ⟨c, cs, hc⟩ := List.exists_cons_of_ne_nil hc
  simp [State.grant, hc, hp]

theorem grant_proc (hc : s.capPort.reqs = []) (hp : s.procPort.reqs ≠ []) : s.grant = some (.proc, s) := by
  obtain ⟨p, ps, hp⟩ := List.exists_cons_of_ne_nil hp
  simp [State.grant, hc, hp]

/-- With requests on both ports the schedule decides (log 4). -/
theorem grant_scheduled {plan : List Agent} (hc : s.capPort.reqs ≠ []) (hp : s.procPort.reqs ≠ [])
    (ha : s.arbPlan = g :: plan) : s.grant = some (g, { s with arbPlan := plan }) := by
  obtain ⟨c, cs, hc⟩ := List.exists_cons_of_ne_nil hc
  obtain ⟨p, ps, hp⟩ := List.exists_cons_of_ne_nil hp
  simp [State.grant, hc, hp, ha]

/-- Past the schedule's end the free value decides (U5, log 4). -/
theorem grant_arbiter (hc : s.capPort.reqs ≠ []) (hp : s.procPort.reqs ≠ []) (ha : s.arbPlan = []) :
    s.grant = some (Config.arbiter s.arbSeq, { s with arbSeq := s.arbSeq + 1 }) := by
  obtain ⟨c, cs, hc⟩ := List.exists_cons_of_ne_nil hc
  obtain ⟨p, ps, hp⟩ := List.exists_cons_of_ne_nil hp
  simp [State.grant, hc, hp, ha]

/-! ### The step -/

theorem step_idle (h : s.grant = none) : step s = .next s := by
  simp [step, fetch, h]

theorem step_instr {i : Instr} {rest : List Beat} (h : s.grant = some (g, t)) (hd : decode (t.port g).reqs = .instr i rest) :
    step s = exec i (t.serving g rest) := by
  simp [step, fetch, h, hd]

theorem step_misframed {why : FrameError} (h : s.grant = some (g, t)) (hd : decode (t.port g).reqs = .misframed why) :
    step s = .fault (.misframed why) := by
  simp [step, fetch, h, hd]

end Cases

/-- Settles O6: `step_instr`, and the served state field by field. -/
theorem stepRunsDecodedRequest : Obligations.StepRunsDecodedRequest :=
  ⟨fun _ _ _ _ _ => step_instr, fun _ _ => ⟨rfl, rfl⟩⟩

/-- Settles O7: one lemma for each case of the grant, the idle step and the stop. -/
theorem portsAndArbitration : Obligations.PortsAndArbitration :=
  ⟨fun _ hc hp => step_idle (grant_idle hc hp), fun _ => grant_cap, fun _ => grant_proc, fun _ _ _ => grant_scheduled,
    fun _ => grant_arbiter, fun _ _ _ _ => step_misframed⟩

end Sys2Proof.Machine
end

section
/-! PROOFS. Every operation ends and is answered once (R6, R103, R366). Two facts make it: `exec_total`, every body of an operation
ends in an answer, and `exec_answeredOnce`, whatever an operation writes before its answer lies inside the block's boundary. -/

namespace Sys2Proof.Machine

/-! ### What no operation writes before it answers -/

/-- What lies around the block: the two ports, the issuer, the arbiter's schedule and the parameters. -/
structure Boundary where
  capPort : Port
  procPort : Port
  agent : Agent
  arbPlan : List Agent
  arbSeq : Nat
  params : Params

def State.boundary (s : State) : Boundary :=
  { capPort := s.capPort, procPort := s.procPort, agent := s.agent, arbPlan := s.arbPlan, arbSeq := s.arbSeq, params := s.params }

theorem State.unlink_boundary (s : State) : s.unlink.boundary = s.boundary := by
  unfold State.unlink
  split <;> rfl

/-- `see` writes the cache alone, in each of its three cases (R210). -/
theorem see_boundary (s : State) (aa : Word) : (see s aa).1.boundary = s.boundary := by
  unfold see
  split
  · rfl
  · split <;> rfl

theorem Scan.record_boundary (acc : Scan) (ch : Byte) (p : Nat) (window : List Bool) :
    (acc.record ch p window).state.boundary = acc.state.boundary := by
  unfold Scan.record
  dsimp only
  split <;> exact see_boundary _ _

theorem scanFrom_boundary (ch : Byte) (pats : List (List Bool)) (n p : Nat) (window : List Bool) (acc : Scan) :
    (scanFrom ch pats n p window acc).state.boundary = acc.state.boundary := by
  induction n generalizing p window acc with
  | zero => rfl
  | succ n ih =>
    unfold scanFrom
    dsimp only
    split
    · split
      · exact acc.record_boundary ch p window
      · exact (ih _ _ _).trans (acc.record_boundary ch p window)
    · exact ih _ _ _

theorem scan_boundary (s : State) (ch : Byte) (data : List Byte) : (scan s ch data).state.boundary = s.boundary :=
  scanFrom_boundary ..

theorem stageCrc_boundary (s : State) (b : Fin 4) (p : PacketView) : (stageCrc s b p).state.boundary = s.boundary := by
  unfold stageCrc
  split <;> rfl

theorem stageInterval_boundary (s : State) (p : PacketView) : (stageInterval s p).state.boundary = s.boundary := by
  unfold stageInterval
  dsimp only
  split
  · rfl
  · split
    · split <;> rfl
    · rfl

theorem inconclusive_boundary (s : State) : (inconclusive s).state.boundary = s.boundary := by
  unfold inconclusive
  dsimp only
  split <;> rfl

theorem stageIncrement_boundary (s : State) (p : PacketView) : (stageIncrement s p).state.boundary = s.boundary := by
  unfold stageIncrement
  split
  · rfl
  · split
    · split
      · rfl
      · exact inconclusive_boundary s
    · rfl

theorem stageFollow_boundary (s : State) (p : PacketView) : (stageFollow s p).state.boundary = s.boundary := by
  unfold stageFollow
  dsimp only
  split <;> rfl

theorem stageHandler_boundary (s : State) (p : PacketView) : (stageHandler s p).state.boundary = s.boundary := by
  unfold stageHandler
  split
  · exact stageInterval_boundary s p
  · exact stageIncrement_boundary s p
  · exact stageFollow_boundary s p
  · rfl
  · rfl
  · rfl

/-- A packet presented is dropped at a gate or given to a handler (R237, R239). -/
theorem intake_boundary (s : State) (b : Fin 4) : (intake s b).state.boundary = s.boundary := by
  unfold intake
  dsimp only
  split
  · rfl
  · split
    · rfl
    · split
      · exact stageCrc_boundary s b _
      · split
        · rfl
        · exact stageHandler_boundary s _

/-- A timeout passed re-seeds or leaves the connection (R260, R288). -/
theorem timeouts_boundary {s u : State} {now : Ts} {events : List Event} (h : timeouts s now = some (u, events)) :
    u.boundary = s.boundary := by
  unfold timeouts at h
  dsimp only at h
  split at h
  · cases h
    rfl
  · split at h
    · cases h
      rfl
    · split at h
      · cases h
        exact s.unlink_boundary
      · cases h

/-! ### One answer -/

/-- One response was sent, after updates that left the boundary alone. -/
def AnsweredOnce (s t : State) : Prop := ∃ (u : State) (r : Response), u.boundary = s.boundary ∧ t = u.answer r

theorem AnsweredOnce.of_eq {s u t : State} {r : Response} (ht : t = u.answer r) (hu : u.boundary = s.boundary) :
    AnsweredOnce s t := ⟨u, r, hu, ht⟩

theorem Failed.answeredOnce {op : Op} {s t : State} (h : Failed op s t) : AnsweredOnce s t := by
  obtain ⟨st, -, ht⟩ := h
  exact .of_eq ht rfl

/-- Only the cache, the scan, a packet, a timeout and leaving the connection branch in their updates; every other update leaves the
boundary alone by its definition. -/
theorem Effect.answeredOnce {i : Instr} {s t : State} (h : Effect i s t) : AnsweredOnce s t := by
  cases i with
  | cmI2f | whLoad | whRefl | crcFwd | crcFwdt | crcRev | prStop | prReseed | prSetaa | prSetcv | lsStop | lsUpdate
  | rtTake =>
    obtain ⟨-, ht⟩ := h
    exact .of_eq ht rfl
  | cmF2i =>
    obtain ⟨k, -, ht⟩ := h
    exact .of_eq ht rfl
  | cmAdv | crcRev24 | pbStat | acClear | prGet | prGetcv | lsFilter => exact .of_eq h rfl
  | cmHop | whXor | whXors | crcChk | prStart =>
    obtain ⟨-, -, ht⟩ := h
    exact .of_eq ht rfl
  | whStep | lsFollow =>
    obtain ⟨-, -, -, ht⟩ := h
    exact .of_eq ht rfl
  | pbAcq =>
    obtain ⟨-, ⟨-, ht⟩ | ⟨b, -, ht⟩⟩ := h
    · exact .of_eq ht rfl
    · exact .of_eq ht rfl
  | pbWrite =>
    obtain ⟨-, b, -, ⟨ht, -⟩ | ⟨-, -, ht⟩⟩ := h
    · exact .of_eq ht rfl
    · exact .of_eq ht rfl
  | pbRssi | pbAbort =>
    obtain ⟨b, -, ht⟩ := h
    exact .of_eq ht rfl
  | pbCommit =>
    obtain ⟨-, b, -, ⟨-, ht⟩ | ⟨-, ht⟩⟩ := h
    · exact .of_eq ht rfl
    · exact .of_eq ht rfl
  | pbPoll =>
    obtain ⟨b, q, -, ht⟩ := h
    exact .of_eq ht rfl
  | pbRead | pbRel =>
    obtain ⟨b, -, -, ht⟩ := h
    exact .of_eq ht rfl
  | acSee aa =>
    obtain ⟨-, ⟨-, ht⟩ | ⟨-, ht⟩⟩ := h
    · exact .of_eq ht (see_boundary s aa)
    · exact .of_eq ht (see_boundary s aa)
  | acScan ch data =>
    obtain ⟨-, -, -, ht⟩ := h
    exact .of_eq ht (scan_boundary s ch data)
  | acGet =>
    obtain ⟨j, -, ⟨-, ht⟩ | ⟨-, ht⟩⟩ := h
    · exact .of_eq ht rfl
    · exact .of_eq ht rfl
  | prPkt =>
    obtain ⟨b, -, -, ht⟩ := h
    exact .of_eq ht (intake_boundary s b)
  | tick now =>
    obtain ⟨-, ht⟩ | ⟨-, -, ht⟩ | ⟨-, u, events, hu, ht⟩ := h
    · exact .of_eq ht rfl
    · exact .of_eq ht rfl
    · have hlatched : u.boundary = (s.latch now).boundary := timeouts_boundary hu
      exact .of_eq ht hlatched
  | prGetaa =>
    obtain ⟨-, ht⟩ | ⟨-, ht⟩ := h
    · exact .of_eq ht rfl
    · exact .of_eq ht rfl
  | prSetto =>
    obtain ⟨-, ht⟩ | ⟨-, ht⟩ | ⟨-, ht⟩ := h
    · exact .of_eq ht rfl
    · exact .of_eq ht rfl
    · exact .of_eq ht rfl
  | lsConnreq =>
    obtain ⟨-, -, -, ⟨-, ht⟩ | ⟨-, q, -, ht⟩⟩ := h
    · exact .of_eq ht rfl
    · exact .of_eq ht rfl
  | lsEvent =>
    obtain ⟨-, ⟨-, ht⟩ | ⟨-, ht⟩⟩ := h
    · exact .of_eq ht rfl
    · exact .of_eq ht rfl
  | lsCancel =>
    obtain ⟨-, ht⟩ | ⟨-, ht⟩ := h
    · exact .of_eq ht rfl
    · exact .of_eq ht s.unlink_boundary

theorem exec_answeredOnce {i : Instr} {s t : State} (h : exec i s = .next t) : AnsweredOnce s t :=
  (exec_next h).elim Failed.answeredOnce Effect.answeredOnce

/-! ### Every operation ends -/

/-- An operation's body ends in an answer: no fault, no refusal (R300, R304). -/
def Ends (k : Result) : Prop := ∃ t, k = .next t

theorem Ends.raise {s : State} {st : Status} : Ends (raise s st) := ⟨_, rfl⟩

theorem Ends.reply {s : State} {r : Response} : Ends (reply s r) := ⟨_, rfl⟩

theorem Ends.dropMalformed {s : State} {b : Fin 4} : Ends (dropMalformed s b) := ⟨_, rfl⟩

theorem Ends.ite {c : Prop} {_ : Decidable c} {k l : Result} (hk : Ends k) (hl : Ends l) : Ends (if c then k else l) := by
  split
  · exact hk
  · exact hl

theorem Ends.served {op : Op} {s : State} {k : Result} (hk : Ends k) : Ends (served op s k) := .ite hk .raise

/-- The cases are grouped by the shape of the operation's body: its checks, then its answer. -/
theorem exec_total (i : Instr) (s : State) : Ends (exec i s) := by
  unfold exec
  cases i with
  | cmI2f | whLoad | whXor | whRefl | crcFwd | crcFwdt | crcRev | crcChk | prSetcv =>
    exact .served (.ite .raise .reply)
  | cmF2i | pbRssi | pbAbort | pbPoll | prSetto =>
    refine .served ?_
    split
    · exact .raise
    · exact .reply
  | cmAdv | crcRev24 | pbStat | acClear | prGet | prGetcv | lsFilter => exact .served .reply
  | cmHop | whStep | whXors => exact .served (.ite .raise (.ite .raise .reply))
  | pbAcq =>
    refine .served ?_
    split
    · exact .raise
    · split
      · exact .raise
      · exact .reply
  | pbWrite =>
    refine .served (.ite .raise ?_)
    split
    · exact .raise
    · exact .ite .dropMalformed (.ite .dropMalformed .reply)
  | pbCommit =>
    refine .served (.ite .raise ?_)
    split
    · exact .raise
    · exact .ite .reply .dropMalformed
  | pbRead | pbRel | prPkt =>
    refine .served ?_
    split
    · exact .raise
    · exact .ite .reply .raise
  | acSee | lsEvent => exact .served (.ite (.ite .reply .reply) .raise)
  | acScan | prStart | lsFollow => exact .served (.ite .raise (.ite .reply .raise))
  | acGet =>
    refine .served ?_
    split
    · exact .raise
    · exact .ite .reply .reply
  | prStop | prReseed | prSetaa | lsStop | lsUpdate | rtTake => exact .served (.ite .reply .raise)
  | tick =>
    refine .served (.ite .reply ?_)
    split
    · exact .reply
    · exact .reply
  | prGetaa | lsCancel => exact .served (.ite .reply .reply)
  | lsConnreq => exact .served (.ite .raise (.ite .raise (.ite .reply .reply)))

/-! ### The obligation -/

theorem State.port_of_boundary {s u : State} (h : u.boundary = s.boundary) (g : Agent) : u.port g = s.port g := by
  cases g with
  | cap => exact congrArg Boundary.capPort h
  | proc => exact congrArg Boundary.procPort h

/-- Settles O17: the operation ends (`exec_total`), and it changes its issuer's port by the one response alone. -/
theorem everyRequestAnsweredOnce : Obligations.EveryRequestAnsweredOnce := by
  intro i s
  obtain ⟨t, ht⟩ := exec_total i s
  obtain ⟨u, r, hu, rfl⟩ := exec_answeredOnce ht
  have hagent : u.agent = s.agent := congrArg Boundary.agent hu
  have hissuer : (u.answer r).port s.agent = { reqs := (s.port s.agent).reqs, resps := (s.port s.agent).resps ++ [r] } := by
    rw [← State.port_of_boundary hu, ← hagent, State.answer_port_issuer]
  have hother : (u.answer r).port (otherAgent s.agent) = s.port (otherAgent s.agent) := by
    rw [← State.port_of_boundary hu, ← hagent, State.answer_port_other]
  exact ⟨_, r, ht, by rw [hissuer], by rw [hissuer], hother, hagent, congrArg Boundary.arbPlan hu,
    congrArg Boundary.arbSeq hu, congrArg Boundary.params hu⟩

end Sys2Proof.Machine
end

section
/-! PROOFS. What every step does to the elements that the triple, cache and value invariants speak of, said once: a step is a chain of
the elementary writes of `Write`, each under its guard (`step_writes`). An invariant that each write keeps is kept by every step. -/

namespace Sys2Proof.Machine

/-! ### The elements the invariants read -/

/-- The elements that the triple, cache and value invariants read. -/
structure Watched where
  mode : Mode
  lstate : LState
  stage : Stage
  aaValid : Bool
  crcLfsr : Crc
  crcRaw : Crc
  crcVerified : Bool
  hopinc : Byte
  hopincValid : Bool
  chan : Byte
  discChan : Byte
  interval : Half
  intervalValid : Bool
  hiMatch : Byte
  hpFirstValid : Bool
  rtChan : Byte
  ac : Vector AcSlot 32
  pb : Vector Buffer 4
  whCap : WhCtx
  whProc : WhCtx
  params : Params

def State.watched (s : State) : Watched :=
  { mode := s.mode, lstate := s.lstate, stage := s.stage, aaValid := s.aaValid, crcLfsr := s.crcLfsr, crcRaw := s.crcRaw
    crcVerified := s.crcVerified, hopinc := s.hopinc, hopincValid := s.hopincValid, chan := s.chan, discChan := s.discChan
    interval := s.interval, intervalValid := s.intervalValid, hiMatch := s.hiMatch, hpFirstValid := s.hpFirstValid
    rtChan := s.rtChan, ac := s.ac, pb := s.pb, whCap := s.whCap, whProc := s.whProc, params := s.params }

/-- The stages of `PROMISC` mode in which no connection is followed yet (R25). -/
def Stage.searching (st : Stage) : Bool := st == .discovery || st.recovering

/-! ### The elementary writes -/

/-- One elementary write, with its guard. `elsewhere` stands for every write that leaves the watched elements alone: of ports and
schedule, timestamps, event counter and window, filter, timeouts, queue and discards. -/
inductive Write : State → State → Prop
  | elsewhere {s u : State} (h : u.watched = s.watched) : Write s u
  | load {s : State} {ch : Byte} (start : Half) (hch : ch.toNat ≤ 39) :
      Write s (s.setWhc { loaded := true, ch := ch, pos := advance (whIdx ch) start.toNat })
  | stream {s : State} (n : Nat) : Write s (s.setWhc { s.whc with pos := advance s.whc.pos.toNat n })
  | buffer {s : State} {b : Fin 4} {p : Buffer} (hp : p.chan = s.pb[b].chan ∨ p.chan.toNat ≤ 39) : Write s (s.setBuf b p)
  | clear {s : State} : Write s s.clearCache
  | sight {s : State} (aa : Word) : Write s (see s aa).1
  | promote {s : State} (aa : Word) (hst : s.stage = .discovery) : Write s (s.promote aa)
  | startDiscovery {s : State} {ch : Byte} (hch : ch.toNat ≤ 39) : Write s (s.startDiscovery ch)
  | startFollow {s : State} {ch : Byte} (hch : ch.toNat ≤ 39) : Write s (s.startFollow ch)
  | shutDown {s : State} : Write s s.shutDown
  | reseed {s : State} (h : s.mode = .promisc ∨ s.stage.searching = true) : Write s s.reseeded
  | track {s : State} (aa : Word) (hm : s.mode = .promisc) : Write s (s.track aa)
  | recoverSeed {s : State} (p : PacketView) (hst : s.stage = .crcRecovery) (ha : s.aaValid = true) : Write s (s.recoverSeed p)
  | agree {s : State} (hst : s.stage = .hopIntervalRecovery) (h5 : (toByte (s.hiMatch.toNat + 1)).toNat ≠ 5) :
      Write s { s with hiMatch := toByte (s.hiMatch.toNat + 1) }
  | disagree {s : State} (hst : s.stage = .hopIntervalRecovery) : Write s { s with hiMatch := 0 }
  | freeze {s : State} (hst : s.stage = .hopIntervalRecovery) (he : s.hiEst.toNat ≠ 0) :
      Write s { s with hiMatch := 5 }.freeze
  | forgetFirst {s : State} (hst : s.stage = .hopIncrementRecovery) : Write s { s with hpFirstValid := false }
  | probeFirst {s : State} (hst : s.stage = .hopIncrementRecovery) (hf : s.hpFirstValid = false) :
      Write s (s.tune s.params.probeA)
  | probeFirstIfOther {s : State} (hst : s.stage = .hopIncrementRecovery) (hf : s.hpFirstValid = false) :
      Write s (s.tuneIfOther s.params.probeA)
  | probeSecond {s : State} (hst : s.stage = .hopIncrementRecovery) :
      Write s { s.tune s.params.probeB with hpFirstValid := true }
  | succeed {s : State} (p : PacketView) {inc : Byte} (hst : s.stage = .hopIncrementRecovery) (hi : inc.toNat ≤ 36) :
      Write s (s.succeed p inc)
  | connected {s : State} (hl : s.lstate = .connPending) : Write s { s with lstate := .connected }
  | connect {s : State} {q : ConnRequest} (hm : s.mode = .follow) (hq : q.hopinc.toNat ≤ 36) : Write s (s.connect q)
  | retime {s : State} (v : Half) (hl : s.lstate = .connected) : Write s { s with interval := v }
  | hop {s : State} (hl : s.lstate = .connected) : Write s s.hop

/-- A chain of elementary writes. -/
inductive Writes : State → State → Prop
  | none (s : State) : Writes s s
  | more {s u v : State} (h : Writes s u) (hw : Write u v) : Writes s v

theorem Writes.one {s u : State} (h : Write s u) : Writes s u := (Writes.none s).more h

theorem Writes.trans {s u v : State} (h : Writes s u) (hv : Writes u v) : Writes s v := by
  induction hv with
  | none => exact h
  | more _ hw ih => exact ih.more hw

/-- A write that leaves the watched elements alone, after a chain. -/
theorem Writes.elsewhere {s u v : State} (h : Writes s u) (hv : v.watched = u.watched) : Writes s v := h.more (.elsewhere hv)

theorem Writes.answer {s u : State} (r : Response) (h : Writes s u) : Writes s (u.answer r) := h.elsewhere rfl

theorem Writes.keeps {P : State → Prop} (hP : ∀ s u : State, P s → Write s u → P u) {s u : State} (h : Writes s u) (hs : P s) :
    P u := by
  induction h with
  | none => exact hs
  | more _ hw ih => exact hP _ _ ih hw

/-! ### What a packet writes -/

theorem dataChan_toNat (n : Nat) : (dataChan n).toNat = n % 37 := by
  have hlt : n % 37 < 2 ^ 8 := by omega
  exact (BitVec.toNat_ofNat ..).trans (Nat.mod_eq_of_lt hlt)

theorem dataChan_le (n : Nat) : (dataChan n).toNat ≤ 36 := by
  rw [dataChan_toNat]
  omega

theorem stageCrc_writes {s : State} (b : Fin 4) (p : PacketView) (hst : s.stage = .crcRecovery) (ha : s.aaValid = true) :
    Writes s (stageCrc s b p).state := by
  unfold stageCrc
  split
  · exact .one (.recoverSeed p hst ha)
  · exact .none _

/-- The state in which `stage_interval` has noted the gap that a packet ends (R242). -/
def State.noteGap (s : State) (p : PacketView) : State :=
  { s with hiPrevTs := p.ts, hiSmallest := smaller s.hiSmallest (tdiff p.ts s.hiPrevTs) }

theorem noteGap_writes (s : State) (p : PacketView) : Writes s (s.noteGap p) := .one (.elsewhere rfl)

/-- The gap and its estimate are not watched; the count of agreeing estimates is, and at the fifth the frozen interval. -/
theorem stageInterval_writes {s : State} (p : PacketView) (hst : s.stage = .hopIntervalRecovery) :
    Writes s (stageInterval s p).state := by
  have noted := noteGap_writes s p
  unfold stageInterval
  dsimp only
  split
  · exact .none s
  · split
    · next he =>
      have hne : s.hiEst.toNat ≠ 0 := fun h0 => he.1 (he.2.trans h0)
      split
      · next h5 =>
        rw [show toByte (s.hiMatch.toNat + 1) = 5 from BitVec.eq_of_toNat_eq h5]
        exact noted.more (.freeze hst hne)
      · next h5 => exact noted.more (.agree hst h5)
    · exact (noted.more (.disagree hst)).elsewhere rfl

/-- The state in which one more inconclusive pair is counted (R251). -/
def State.countRetry (s : State) : State := { s with hpRetries := toByte (s.hpRetries.toNat + 1) }

theorem inconclusive_writes {s : State} (hst : s.stage = .hopIncrementRecovery) : Writes s (inconclusive s).state := by
  have counted : Writes s s.countRetry := .one (.elsewhere rfl)
  unfold inconclusive
  dsimp only
  split
  · exact counted.more (.reseed (.inr (congrArg Stage.searching hst)))
  · exact (counted.more (.forgetFirst hst)).more (.probeFirst hst rfl)

theorem stageIncrement_writes {s : State} (p : PacketView) (hst : s.stage = .hopIncrementRecovery) :
    Writes s (stageIncrement s p).state := by
  unfold stageIncrement
  split
  · exact (Writes.one (.probeSecond hst)).elsewhere rfl
  · split
    · split
      · exact .one (.succeed p hst (dataChan_le _))
      · exact inconclusive_writes hst
    · exact (Writes.one (.forgetFirst hst)).more (.probeFirstIfOther hst rfl)

theorem stageFollow_writes (s : State) (p : PacketView) : Writes s (stageFollow s p).state := by
  unfold stageFollow
  dsimp only
  split
  · next hl => exact (Writes.one (.connected hl)).elsewhere rfl
  · exact .one (.elsewhere rfl)

theorem stageHandler_writes (s : State) (p : PacketView) : Writes s (stageHandler s p).state := by
  unfold stageHandler
  split
  · next hst => exact stageInterval_writes p hst
  · next hst => exact stageIncrement_writes p hst
  · exact stageFollow_writes s p
  · exact .none _
  · exact .none _
  · exact .none _

/-- A packet presented is dropped at a gate, which writes nothing, or given to a handler (R237, R239). -/
theorem intake_writes (s : State) (b : Fin 4) : Writes s (intake s b).state := by
  unfold intake
  dsimp only
  split
  · exact .none _
  · split
    · exact .none _
    · next ha =>
      split
      · next hst => exact stageCrc_writes b _ hst (by simp_all)
      · split
        · exact .none _
        · exact stageHandler_writes s _

/-! ### What a scan, a timeout and a cancel write -/

/-- `see` writes the cache alone, in each of its three cases (R210). -/
theorem see_frame (s : State) (aa : Word) : (see s aa).1 = { s with ac := (see s aa).1.ac } := by
  unfold see
  split
  · rfl
  · split
    · rfl
    · rfl

theorem see_stage (s : State) (aa : Word) : (see s aa).1.stage = s.stage := by rw [see_frame]

theorem Scan.record_writes (acc : Scan) (ch : Byte) (p : Nat) (window : List Bool) (hst : acc.state.stage = .discovery) :
    Writes acc.state (acc.record ch p window).state := by
  unfold Scan.record
  dsimp only
  split
  · exact (Writes.one (.sight _)).more (.promote _ (by rw [see_stage, hst]))
  · exact .one (.sight _)

/-- The scan goes on only while the stage stays `Discovery`: a promotion ends it (R216). -/
theorem Scan.record_stage (acc : Scan) (ch : Byte) (p : Nat) (window : List Bool)
    (h : (acc.record ch p window).promoted = false) : (acc.record ch p window).state.stage = acc.state.stage := by
  revert h
  unfold Scan.record
  dsimp only
  split
  · intro h
    cases h
  · intro _
    exact see_stage _ _

theorem scanFrom_writes (ch : Byte) (pats : List (List Bool)) (n p : Nat) (window : List Bool) (acc : Scan)
    (hst : acc.state.stage = .discovery) : Writes acc.state (scanFrom ch pats n p window acc).state := by
  induction n generalizing p window acc with
  | zero => exact .none _
  | succ n ih =>
    unfold scanFrom
    dsimp only
    split
    · have recorded := acc.record_writes ch p window hst
      split
      · exact recorded
      · next hp => exact recorded.trans (ih _ _ _ ((acc.record_stage ch p window (by simpa using hp)).trans hst))
    · exact ih _ _ _ hst

theorem scan_writes {s : State} (ch : Byte) (data : List Byte) (hst : s.stage = .discovery) :
    Writes s (scan s ch data).state := by
  unfold scan
  exact scanFrom_writes ch (patterns ch) _ _ _ { state := s, found := 0, last := 0, promoted := false, events := [] } hst

theorem unlink_writes (s : State) : Writes s s.unlink := by
  unfold State.unlink
  split
  · next hm => exact .one (.reseed (.inl hm))
  · exact .one .shutDown

/-- A timeout passed re-seeds or leaves the connection (R260, R288). -/
theorem timeouts_writes {s u : State} {now : Ts} {events : List Event} (h : timeouts s now = some (u, events)) : Writes s u := by
  unfold timeouts at h
  dsimp only at h
  split at h
  · next hd =>
    cases h
    exact .one (.reseed (.inr (by simp [Stage.searching, hd.1])))
  · split at h
    · next hr =>
      cases h
      exact .one (.reseed (.inr (by simp [Stage.searching, hr.1])))
    · split at h
      · cases h
        exact unlink_writes s
      · cases h

/-! ### What an operation and a step write -/

theorem Failed.writes {op : Op} {s t : State} (h : Failed op s t) : Writes s t := by
  obtain ⟨st, -, rfl⟩ := h
  exact .answer _ (.none s)

theorem Effect.writes {i : Instr} {s t : State} (h : Effect i s t) : Writes s t := by
  cases i with
  | cmAdv | crcRev24 | pbStat | prGet | prGetcv =>
    obtain rfl := h
    exact .answer _ (.none s)
  | cmI2f | whRefl | crcFwd | crcFwdt | crcRev =>
    obtain ⟨-, rfl⟩ := h
    exact .answer _ (.none s)
  | cmF2i =>
    obtain ⟨k, -, rfl⟩ := h
    exact .answer _ (.none s)
  | cmHop | whXor | crcChk =>
    obtain ⟨-, -, rfl⟩ := h
    exact .answer _ (.none s)
  | pbPoll | pbRead =>
    obtain ⟨_, _, _, rfl⟩ := h
    exact .answer _ (.none s)
  | acGet =>
    obtain ⟨j, -, ⟨-, rfl⟩ | ⟨-, rfl⟩⟩ := h
    · exact .answer _ (.none s)
    · exact .answer _ (.none s)
  | prGetaa =>
    obtain ⟨-, rfl⟩ | ⟨-, rfl⟩ := h
    · exact .answer _ (.none s)
    · exact .answer _ (.none s)
  | lsFilter =>
    obtain rfl := h
    exact .one (.elsewhere rfl)
  | prSetcv | lsUpdate | rtTake =>
    obtain ⟨-, rfl⟩ := h
    exact .one (.elsewhere rfl)
  | prSetto =>
    obtain ⟨-, rfl⟩ | ⟨-, rfl⟩ | ⟨-, rfl⟩ := h
    · exact .one (.elsewhere rfl)
    · exact .one (.elsewhere rfl)
    · exact .one (.elsewhere rfl)
  | whLoad ch start =>
    obtain ⟨hch, rfl⟩ := h
    exact .answer _ (.one (.load start hch))
  | whStep =>
    obtain ⟨-, -, -, rfl⟩ := h
    exact .answer _ (.one (.stream _))
  | whXors =>
    obtain ⟨-, -, rfl⟩ := h
    exact .answer _ (.one (.stream _))
  | pbAcq =>
    obtain ⟨-, ⟨-, rfl⟩ | ⟨b, -, rfl⟩⟩ := h
    · exact .one (.elsewhere rfl)
    · exact .answer _ (.one (.buffer (.inl rfl)))
  | pbWrite =>
    obtain ⟨-, b, -, ⟨rfl, -⟩ | ⟨-, -, rfl⟩⟩ := h
    · exact .answer _ (.one (.buffer (.inl rfl)))
    · exact .answer _ (.one (.buffer (.inl rfl)))
  | pbRssi | pbAbort =>
    obtain ⟨b, -, rfl⟩ := h
    exact .answer _ (.one (.buffer (.inl rfl)))
  | pbCommit chan ts aa =>
    obtain ⟨hch, b, -, ⟨-, rfl⟩ | ⟨-, rfl⟩⟩ := h
    · exact .answer _ (.one (.buffer (.inl rfl)))
    · have committed : Writes s (s.setBuf b { s.pb[b] with chan := chan, ts := ts, aa := aa, tag := .queued }) :=
        .one (.buffer (.inr hch))
      exact committed.elsewhere rfl
  | pbRel =>
    obtain ⟨b, -, -, rfl⟩ := h
    have freed : Writes s (s.setTag b .free) := .one (.buffer (.inl rfl))
    exact freed.elsewhere rfl
  | acClear =>
    obtain rfl := h
    exact .answer _ (.one .clear)
  | acSee aa =>
    obtain ⟨hst, ⟨-, rfl⟩ | ⟨-, rfl⟩⟩ := h
    · exact .answer _ ((Writes.one (.sight aa)).more (.promote aa ((see_stage s aa).trans hst)))
    · exact .answer _ (.one (.sight aa))
  | acScan ch data =>
    obtain ⟨-, -, hst, rfl⟩ := h
    exact .answer _ (scan_writes ch data hst)
  | prStart =>
    obtain ⟨hch, -, rfl⟩ := h
    exact .answer _ (.one (.startDiscovery hch))
  | lsFollow =>
    obtain ⟨-, hch, -, rfl⟩ := h
    exact .answer _ (.one (.startFollow hch))
  | prStop | lsStop =>
    obtain ⟨-, rfl⟩ := h
    exact .answer _ (.one .shutDown)
  | prReseed =>
    obtain ⟨hm, rfl⟩ := h
    exact .answer _ (.one (.reseed (.inl hm)))
  | prSetaa aa =>
    obtain ⟨hm, rfl⟩ := h
    exact .answer _ (.one (.track aa hm))
  | prPkt =>
    obtain ⟨b, -, -, rfl⟩ := h
    exact .answer _ (intake_writes s b)
  | tick now =>
    have latched : Writes s (s.latch now) := .one (.elsewhere rfl)
    obtain ⟨-, rfl⟩ | ⟨-, -, rfl⟩ | ⟨-, u, events, hu, rfl⟩ := h
    · exact .answer _ (.none s)
    · exact .answer _ latched
    · exact .answer _ (latched.trans (timeouts_writes hu))
  | lsConnreq =>
    obtain ⟨hq, hm, -, ⟨-, rfl⟩ | ⟨-, q, rfl, rfl⟩⟩ := h
    · exact .answer _ (.none s)
    · exact .answer _ (.one (.connect hm hq))
  | lsEvent =>
    have counted : Writes s s.countEvent := .one (.elsewhere rfl)
    obtain ⟨hl, ⟨-, rfl⟩ | ⟨-, rfl⟩⟩ := h
    · have updated : Writes s s.countEvent.applyUpdate := (counted.more (.retime s.updInterval hl)).elsewhere rfl
      exact .answer _ (updated.more (.hop hl))
    · exact .answer _ (counted.more (.hop hl))
  | lsCancel =>
    obtain ⟨-, rfl⟩ | ⟨-, rfl⟩ := h
    · exact .answer _ (.none s)
    · exact .answer _ (unlink_writes s)

theorem exec_writes {i : Instr} {s t : State} (h : exec i s = .next t) : Writes s t :=
  (exec_next h).elim Failed.writes Effect.writes

theorem State.serving_watched (s : State) (g : Agent) (rest : List Beat) : (s.serving g rest).watched = s.watched := rfl

/-- Whose turn it is is decided without the watched elements (log 4). -/
theorem grant_watched {s t : State} {g : Agent} (h : s.grant = some (g, t)) : t.watched = s.watched := by
  unfold State.grant at h
  split at h
  · cases h
  · cases h
    rfl
  · cases h
    rfl
  · split at h
    · cases h
      rfl
    · cases h
      rfl

/-- A step does nothing, or takes a request and runs or refuses it (R6, R108). -/
theorem step_cases {s t : State} (h : step s = .next t) :
    t = s ∨ ∃ u : State, u.watched = s.watched ∧ ((∃ i, exec i u = .next t) ∨ t = u.answer (errorResponse .illegal)) := by
  rcases hg : s.grant with _ | ⟨g, v⟩
  · rw [step_idle hg] at h
    cases h
    exact .inl rfl
  · have served (rest : List Beat) : (v.serving g rest).watched = s.watched := (v.serving_watched g rest).trans (grant_watched hg)
    simp only [step, fetch, hg] at h
    cases hd : decode (v.port g).reqs with
    | instr i rest =>
      rw [hd] at h
      exact .inr ⟨_, served rest, .inl ⟨i, h⟩⟩
    | illegal why rest =>
      rw [hd] at h
      exact .inr ⟨_, served rest, .inr (raise_next.1 h)⟩
    | misframed why =>
      rw [hd] at h
      cases h

theorem step_writes {s t : State} (h : step s = .next t) : Writes s t := by
  obtain rfl | ⟨u, hu, ⟨i, hi⟩ | ht⟩ := step_cases h
  · exact .none _
  · exact (Writes.one (.elsewhere hu)).trans (exec_writes hi)
  · exact ht ▸ .answer _ (.one (.elsewhere hu))

/-- An invariant of the elementary writes is an invariant of the block. -/
theorem step_keeps {P : State → Prop} (hP : ∀ s u : State, P s → Write s u → P u) {s t : State} (hs : P s)
    (h : step s = .next t) : P t := (step_writes h).keeps hP hs

end Sys2Proof.Machine
end

section
/-! PROOFS. The triple and the cache after every step, by the elementary writes (R25, R42). -/

namespace Sys2Proof.Machine

/-! ### The triple (R25) -/

/-- The table of R25 has one row for each legal triple. -/
theorem rows_count (m : Mode) (l : LState) (st : Stage) :
    (tripleRows.countP fun r => r.1 == m && r.2.1 == l && r.2.2.contains st) = 1 ↔
      (m = .off ∧ l = .inactive ∧ st = .idle) ∨
      (m = .promisc ∧ l = .listening ∧
        (st = .discovery ∨ st = .crcRecovery ∨ st = .hopIntervalRecovery ∨ st = .hopIncrementRecovery)) ∨
      (m = .promisc ∧ l = .connected ∧ st = .connectionFollow) ∨
      (m = .follow ∧ l = .listening ∧ st = .idle) ∨
      (m = .follow ∧ l = .connPending ∧ st = .connectionFollow) ∨
      (m = .follow ∧ l = .connected ∧ st = .connectionFollow) := by
  cases m <;> cases l <;> cases st <;> decide

theorem rowsHolding_eq_one {s : State} : s.rowsHolding = 1 ↔ s.TripleLegal := rows_count s.mode s.lstate s.stage

section Triple

variable {s u : State}

theorem tripleLegal_of_watched (h : u.watched = s.watched) (hs : s.TripleLegal) : u.TripleLegal := by
  cases s
  cases u
  cases h
  exact hs

/-- Before a connection is followed in `PROMISC` mode the block listens. -/
theorem tripleLegal_of_searching (hs : s.TripleLegal) (hst : s.stage.searching = true) :
    s.mode = .promisc ∧ s.lstate = .listening := by
  rcases hs with ⟨-, -, h⟩ | ⟨hm, hl, -⟩ | ⟨-, -, h⟩ | ⟨-, -, h⟩ | ⟨-, -, h⟩ | ⟨-, -, h⟩
  case inr.inl => exact ⟨hm, hl⟩
  all_goals
    rw [h] at hst
    cases hst

theorem tripleLegal_of_connected (hs : s.TripleLegal) (hl : s.lstate = .connected) : s.stage = .connectionFollow := by
  rcases hs with ⟨-, h, -⟩ | ⟨-, h, -⟩ | ⟨-, -, hst⟩ | ⟨-, h, -⟩ | ⟨-, h, -⟩ | ⟨-, -, hst⟩
  case inr.inr.inl => exact hst
  case inr.inr.inr.inr.inr => exact hst
  all_goals
    rw [h] at hl
    cases hl

theorem tripleLegal_of_connPending (hs : s.TripleLegal) (hl : s.lstate = .connPending) :
    s.mode = .follow ∧ s.stage = .connectionFollow := by
  rcases hs with ⟨-, h, -⟩ | ⟨-, h, -⟩ | ⟨-, h, -⟩ | ⟨-, h, -⟩ | ⟨hm, -, hst⟩ | ⟨-, h, -⟩
  case inr.inr.inr.inr.inl => exact ⟨hm, hst⟩
  all_goals
    rw [h] at hl
    cases hl

/-- A write that enters a searching stage of `PROMISC` mode. -/
theorem tripleLegal_search (hm : u.mode = .promisc) (hl : u.lstate = .listening) (hst : u.stage.searching = true) :
    u.TripleLegal := by
  refine .inr (.inl ⟨hm, hl, ?_⟩)
  cases h : u.stage
  all_goals
    rw [h] at hst
    simp_all [Stage.searching, Stage.recovering]

/-- A stage change while searching: the mode is `PROMISC` and the block goes on listening. -/
theorem tripleLegal_searchOn (hs : s.TripleLegal) (hst : s.stage.searching = true) (hm : u.mode = s.mode)
    (hl : u.lstate = s.lstate) (hu : u.stage.searching = true) : u.TripleLegal := by
  obtain ⟨hmode, hlisten⟩ := tripleLegal_of_searching hs hst
  exact tripleLegal_search (hm.trans hmode) (hl.trans hlisten) hu

theorem Write.tripleLegal (hs : s.TripleLegal) (h : Write s u) : u.TripleLegal := by
  cases h with
  | elsewhere h => exact tripleLegal_of_watched h hs
  | load | stream | buffer | clear | agree | disagree | forgetFirst | probeFirst | probeFirstIfOther | probeSecond | retime
  | hop => exact hs
  | sight aa =>
    rw [see_frame]
    exact hs
  | promote aa hst => exact tripleLegal_searchOn hs (by rw [hst]; rfl) rfl rfl rfl
  | recoverSeed p hst | freeze hst => exact tripleLegal_searchOn hs (by rw [hst]; rfl) rfl rfl rfl
  | startDiscovery => exact tripleLegal_search rfl rfl rfl
  | startFollow => exact .inr (.inr (.inr (.inl ⟨rfl, rfl, rfl⟩)))
  | shutDown => exact .inl ⟨rfl, rfl, rfl⟩
  | reseed h =>
    have hm : s.mode = .promisc := h.elim id fun hst => (tripleLegal_of_searching hs hst).1
    exact tripleLegal_search hm rfl rfl
  | track aa hm => exact tripleLegal_search hm rfl rfl
  | succeed p hst =>
    have hm : s.mode = .promisc := (tripleLegal_of_searching hs (by rw [hst]; rfl)).1
    exact .inr (.inr (.inl ⟨hm, rfl, rfl⟩))
  | connected hl =>
    obtain ⟨hm, hst⟩ := tripleLegal_of_connPending hs hl
    exact .inr (.inr (.inr (.inr (.inr ⟨hm, rfl, hst⟩))))
  | connect hm => exact .inr (.inr (.inr (.inr (.inl ⟨hm, rfl, rfl⟩))))

end Triple

/-- Settles O8: one row of the table for each legal triple, which every elementary write keeps. -/
theorem tripleInvariantKept : Obligations.TripleInvariantKept := by
  refine ⟨rowsHolding_eq_one.2 (.inl ⟨rfl, rfl, rfl⟩), fun s t hs h => ?_⟩
  exact rowsHolding_eq_one.2 (step_keeps (fun _ _ => Write.tripleLegal) (rowsHolding_eq_one.1 hs) h)

/-! ### The cache (R42) -/

section Cache

variable {s u : State}

theorem cacheWf_of_ac (h : u.ac = s.ac) (hs : s.CacheWf) : u.CacheWf := by
  unfold State.CacheWf
  rw [h]
  exact hs

theorem cacheWf_of_none_valid (h : ∀ i : Fin 32, s.ac[i].valid = false) : s.CacheWf := by
  have absent (i : Fin 32) : ¬s.ac[i].valid = true := by
    rw [h i]
    exact Bool.false_ne_true
  exact ⟨fun i j hi => absurd hi (absent i), fun i hi => absurd hi (absent i)⟩

/-- Clearing the 32 valid bits leaves no valid slot (R211, R234). -/
theorem cacheWf_of_cleared (h : u.ac = s.ac.map fun e => { e with valid := false }) : u.CacheWf :=
  cacheWf_of_none_valid fun i => by simp [h]

theorem setSlot_ac (s : State) (j i : Fin 32) (e : AcSlot) : (s.setSlot j e).ac[i] = if j = i then e else s.ac[i] := by
  simp [State.setSlot, Vector.getElem_set, Fin.ext_iff]

/-- An entry that counts and whose address no other slot holds may be put into a slot. -/
theorem cacheWf_setSlot (hs : s.CacheWf) {j : Fin 32} {e : AcSlot} (hc : 1 ≤ e.count.toNat)
    (ha : ∀ i : Fin 32, i ≠ j → s.ac[i].valid = true → s.ac[i].aa ≠ e.aa) : (s.setSlot j e).CacheWf := by
  obtain ⟨hone, hcount⟩ := hs
  constructor
  · intro i k
    rw [setSlot_ac, setSlot_ac]
    split
    · next hi =>
      split
      · next hk => exact fun _ _ _ => hi.symm.trans hk
      · next hk => exact fun _ hv he => absurd he.symm (ha k (Ne.symm hk) hv)
    · next hi =>
      split
      · next hk => exact fun hv _ he => absurd he (ha i (Ne.symm hi) hv)
      · exact hone i k
  · intro i
    rw [setSlot_ac]
    split
    · exact fun _ => hc
    · exact hcount i

theorem satSucc_pos (v : Word) : 1 ≤ (satSucc v).toNat := by
  unfold satSucc
  rw [BitVec.toNat_ofNat]
  omega

/-- A sighting counts the slot that holds the address, or enters it where no slot does (R210). -/
theorem cacheWf_see (hs : s.CacheWf) (aa : Word) : (see s aa).1.CacheWf := by
  unfold Machine.see
  split
  · next j hj =>
    obtain ⟨⟨hv, -⟩, -⟩ := holding_some.1 hj
    exact cacheWf_setSlot hs (satSucc_pos _) fun i hi hvi he => hi (hs.1 i j hvi hv he)
  · next hn =>
    have unheld (j i : Fin 32) (_ : i ≠ j) (hv : s.ac[i].valid = true) : s.ac[i].aa ≠ (AcSlot.fresh aa).aa :=
      fun he => holding_none.1 hn i ⟨hv, he⟩
    split
    · next j _ => exact cacheWf_setSlot hs (Nat.le_refl 1) (unheld j)
    · exact cacheWf_setSlot hs (Nat.le_refl 1) (unheld _)

theorem Write.cacheWf (hs : s.CacheWf) (h : Write s u) : u.CacheWf := by
  cases h with
  | elsewhere h => exact cacheWf_of_ac (congrArg Watched.ac h) hs
  | load | stream | buffer | promote | recoverSeed | agree | disagree | freeze | forgetFirst | probeFirst | probeFirstIfOther
  | probeSecond | succeed | connected | connect | retime | hop => exact hs
  | clear | startDiscovery | startFollow | shutDown | reseed | track => exact cacheWf_of_cleared (s := s) rfl
  | sight aa => exact cacheWf_see hs aa

end Cache

/-- Settles O10: the sighting and the clearing are the only writes of the cache. -/
theorem cacheInvariantKept : Obligations.CacheInvariantKept :=
  fun _ _ hs h => step_keeps (fun _ _ => Write.cacheWf) hs h

end Sys2Proof.Machine
end

section
/-! PROOFS. The ranges of the elements and the values each stage reads, after every step (R28, R30, R31, R38, R44, R45, R246, R247,
R250, R275, R283). -/

namespace Sys2Proof.Machine

/-! ### The value invariant in two parts -/

/-- The ranges of a stream context (R45). -/
abbrev WhCtx.InRange (c : WhCtx) : Prop := c.ch.toNat ≤ 39 ∧ c.pos.toNat ≤ 126

/-- The ranges of the elements and the two forms of the seed, in every stage. -/
structure State.InRange (s : State) : Prop where
  params : s.params.Wf
  chan : s.chan.toNat ≤ 39
  discChan : s.discChan.toNat ≤ 39
  rtChan : s.rtChan.toNat ≤ 39
  pb : ∀ b : Fin 4, s.pb[b].chan.toNat ≤ 39
  whCap : s.whCap.InRange
  whProc : s.whProc.InRange
  hopinc : s.hopincValid = true → s.hopinc.toNat ≤ 36
  seed : s.crcVerified = true → s.crcRaw = rev24 s.crcLfsr
  hiMatch : s.hiMatch.toNat ≤ 5

/-- The tracked address and its seed are known (R239). -/
abbrev State.Tracked (s : State) : Prop := s.aaValid = true ∧ s.crcVerified = true

/-- What `HopIncrementRecovery` reads (R246, R247, R248). -/
abbrev State.Probing (s : State) : Prop :=
  s.Tracked ∧ s.intervalValid = true ∧ s.interval ≠ 0#16 ∧ (s.chan = s.params.probeA ∨ s.chan = s.params.probeB) ∧
    (s.hpFirstValid = true → s.chan = s.params.probeB)

/-- What `ConnectionFollow` reads (R250, R275, R283). -/
abbrev State.Following (s : State) : Prop :=
  s.Tracked ∧ s.intervalValid = true ∧ s.hopincValid = true ∧ s.chan.toNat ≤ 36

/-- The values the stage reads. -/
def State.StageReady (s : State) : Prop :=
  match s.stage with
  | .idle => True
  | .discovery => True
  | .crcRecovery => s.aaValid = true
  | .hopIntervalRecovery => s.Tracked ∧ s.hiMatch.toNat ≤ 4
  | .hopIncrementRecovery => s.Probing
  | .connectionFollow => s.Following

section Values

variable {s u : State}

theorem stageReady_crc (hst : s.stage = .crcRecovery) : s.StageReady ↔ s.aaValid = true := by
  simp only [State.StageReady, hst]

theorem stageReady_interval (hst : s.stage = .hopIntervalRecovery) : s.StageReady ↔ s.Tracked ∧ s.hiMatch.toNat ≤ 4 := by
  simp only [State.StageReady, hst]

theorem stageReady_increment (hst : s.stage = .hopIncrementRecovery) : s.StageReady ↔ s.Probing := by
  simp only [State.StageReady, hst]

theorem stageReady_follow (hst : s.stage = .connectionFollow) : s.StageReady ↔ s.Following := by
  simp only [State.StageReady, hst]

theorem valuesWf_iff : s.ValuesWf ↔ s.InRange ∧ s.StageReady := by
  constructor
  · rintro ⟨params, chan, discChan, rtChan, pb, whCapCh, whProcCh, whCapPos, whProcPos, hopinc, seed, hiMatch, crc, known,
      interval, increment, follow⟩
    refine ⟨⟨params, chan, discChan, rtChan, pb, ⟨whCapCh, whCapPos⟩, ⟨whProcCh, whProcPos⟩, hopinc, seed, hiMatch⟩, ?_⟩
    unfold State.StageReady
    split
    · trivial
    · trivial
    · next hst => exact crc hst
    · next hst => exact ⟨known (.inl hst), interval hst⟩
    · next hst => exact ⟨known (.inr (.inl hst)), increment hst⟩
    · next hst => exact ⟨known (.inr (.inr hst)), follow hst⟩
  · rintro ⟨⟨params, chan, discChan, rtChan, pb, ⟨whCapCh, whCapPos⟩, ⟨whProcCh, whProcPos⟩, hopinc, seed, hiMatch⟩, ready⟩
    refine ⟨params, chan, discChan, rtChan, pb, whCapCh, whProcCh, whCapPos, whProcPos, hopinc, seed, hiMatch, ?_, ?_, ?_, ?_, ?_⟩
    · exact fun hst => (stageReady_crc hst).1 ready
    · rintro (hst | hst | hst)
      · exact ((stageReady_interval hst).1 ready).1
      · exact ((stageReady_increment hst).1 ready).1
      · exact ((stageReady_follow hst).1 ready).1
    · exact fun hst => ((stageReady_interval hst).1 ready).2
    · exact fun hst => ((stageReady_increment hst).1 ready).2
    · exact fun hst => ((stageReady_follow hst).1 ready).2

/-! ### The ranges, write by write -/

theorem State.InRange.of_watched (h : u.watched = s.watched) (hs : s.InRange) : u.InRange := by
  cases s
  cases u
  cases h
  exact { hs with }

theorem State.StageReady.of_watched (h : u.watched = s.watched) (hs : s.StageReady) : u.StageReady := by
  cases s
  cases u
  cases h
  exact hs

theorem advance_le (pos n : Nat) : (advance pos n).toNat ≤ 126 := by
  have hlt : (pos + n) % 127 < 2 ^ 7 := by omega
  have hval : (advance pos n).toNat = (pos + n) % 127 := (BitVec.toNat_ofNat ..).trans (Nat.mod_eq_of_lt hlt)
  omega

theorem rev24_rev24 (v : Crc) : rev24 (rev24 v) = v :=
  BitVec.eq_of_getLsbD_eq fun _ _ => BitVec.getLsbD_reverse.trans BitVec.getMsbD_reverse

theorem State.InRange.whc (hs : s.InRange) : s.whc.InRange := by
  unfold State.whc
  split
  · exact hs.whCap
  · exact hs.whProc

theorem State.InRange.setWhc (hs : s.InRange) {c : WhCtx} (hc : c.InRange) : (s.setWhc c).InRange :=
  { hs with
    whCap := by
      unfold State.setWhc
      dsimp only
      split
      · exact hc
      · exact hs.whCap
    whProc := by
      unfold State.setWhc
      dsimp only
      split
      · exact hc
      · exact hs.whProc }

theorem State.InRange.setBuf (hs : s.InRange) {b : Fin 4} {p : Buffer} (hp : p.chan = s.pb[b].chan ∨ p.chan.toNat ≤ 39) :
    (s.setBuf b p).InRange := by
  have hchan : p.chan.toNat ≤ 39 := hp.elim (fun h => h ▸ hs.pb b) id
  refine { hs with pb := fun k => ?_ }
  have hget : (s.setBuf b p).pb[k] = if b = k then p else s.pb[k] := by
    simp [State.setBuf, Vector.getElem_set, Fin.ext_iff]
  rw [hget]
  split
  · exact hchan
  · exact hs.pb k

theorem State.InRange.tune (hs : s.InRange) {c : Byte} (hc : c.toNat ≤ 39) : (s.tune c).InRange :=
  { hs with chan := hc, rtChan := hc }

theorem State.InRange.tuneIfOther (hs : s.InRange) {c : Byte} (hc : c.toNat ≤ 39) : (s.tuneIfOther c).InRange :=
  { hs with
    chan := hc
    rtChan := by
      unfold State.tuneIfOther
      dsimp only
      split
      · exact hs.rtChan
      · exact hc }

/-- What is forgotten is in range: no flag is set and the count is 0 (R234). -/
theorem State.InRange.forget (hs : s.InRange) : s.forget.InRange :=
  { hs with hopinc := nofun, seed := nofun, hiMatch := Nat.zero_le _ }

theorem State.InRange.enter (hs : s.InRange) (m : Mode) (l : LState) (st : Stage) : (s.enter m l st).InRange := { hs with }

theorem State.InRange.reseeded (hs : s.InRange) : s.reseeded.InRange := (hs.forget.enter ..).tuneIfOther hs.discChan

theorem probeA_le (hs : s.InRange) : s.params.probeA.toNat ≤ 36 := by
  obtain ⟨-, -, -, hA, -⟩ := hs.params
  exact hA

theorem probeB_le (hs : s.InRange) : s.params.probeB.toNat ≤ 36 := by
  obtain ⟨-, -, -, -, hB⟩ := hs.params
  exact hB

/-- One more agreement than at most four, and not the fifth. -/
theorem hiMatch_agree {n : Nat} (hn : n ≤ 4) (h5 : (toByte (n + 1)).toNat ≠ 5) : (toByte (n + 1)).toNat ≤ 4 := by
  have hval : (toByte (n + 1)).toNat = n + 1 := (BitVec.toNat_ofNat ..).trans (Nat.mod_eq_of_lt (by omega))
  omega

theorem Write.inRange (hs : s.InRange) (hready : s.StageReady) (h : Write s u) : u.InRange := by
  cases h with
  | elsewhere h => exact hs.of_watched h
  | load start hch => exact hs.setWhc ⟨hch, advance_le ..⟩
  | stream n => exact hs.setWhc ⟨hs.whc.1, advance_le ..⟩
  | buffer hp => exact hs.setBuf hp
  | clear | promote | forgetFirst | connected | retime => exact { hs with }
  | sight aa =>
    rw [see_frame]
    exact { hs with }
  | startDiscovery hch => exact { (hs.forget.enter .promisc .listening .discovery).tune hch with discChan := hch }
  | startFollow hch => exact (hs.forget.enter ..).tune hch
  | shutDown => exact hs.forget.enter ..
  | reseed => exact hs.reseeded
  | track => exact { (hs.forget.enter s.mode .listening .crcRecovery).tuneIfOther hs.discChan with }
  | recoverSeed => exact { hs with seed := fun _ => rfl, hiMatch := Nat.zero_le _ }
  | agree hst h5 =>
    have h4 := hiMatch_agree ((stageReady_interval hst).1 hready).2 h5
    exact { hs with hiMatch := Nat.le_succ_of_le h4 }
  | disagree => exact { hs with hiMatch := Nat.zero_le _ }
  | freeze =>
    have hA := probeA_le hs
    exact { hs with hiMatch := Nat.le_refl 5, chan := Nat.le_trans hA (by decide), rtChan := Nat.le_trans hA (by decide) }
  | probeFirst => exact hs.tune (Nat.le_trans (probeA_le hs) (by decide))
  | probeFirstIfOther => exact hs.tuneIfOther (Nat.le_trans (probeA_le hs) (by decide))
  | probeSecond => exact { hs.tune (Nat.le_trans (probeB_le hs) (by decide)) with }
  | succeed p hst hi => exact { hs with hopinc := fun _ => hi }
  | connect hm hq =>
    have hc (n : Nat) : (dataChan n).toNat ≤ 39 := Nat.le_trans (dataChan_le n) (by decide)
    exact { hs with chan := hc _, rtChan := hc _, hopinc := fun _ => hq, seed := fun _ => (rev24_rev24 _).symm }
  | hop => exact hs.tune (Nat.le_trans (dataChan_le _) (by decide))

/-! ### What the stage reads, write by write -/

theorem Write.stageReady (ht : s.TripleLegal) (hs : s.InRange) (hready : s.StageReady) (h : Write s u) : u.StageReady := by
  cases h with
  | elsewhere h => exact hready.of_watched h
  | load | stream | buffer | clear | connected => exact hready
  | sight aa =>
    rw [see_frame]
    exact hready
  | startDiscovery | startFollow | shutDown | reseed => exact trivial
  | promote | track => exact (rfl : true = true)
  | recoverSeed p hst ha => exact ⟨⟨ha, rfl⟩, Nat.zero_le _⟩
  | agree hst h5 =>
    obtain ⟨tracked, hm⟩ := (stageReady_interval hst).1 hready
    exact Iff.mpr (stageReady_interval hst) ⟨tracked, hiMatch_agree hm h5⟩
  | disagree hst =>
    obtain ⟨tracked, -⟩ := (stageReady_interval hst).1 hready
    exact Iff.mpr (stageReady_interval hst) ⟨tracked, Nat.zero_le _⟩
  | freeze hst he =>
    obtain ⟨tracked, -⟩ := (stageReady_interval hst).1 hready
    have hpos : s.hiEst ≠ 0#16 := fun h0 => he (congrArg BitVec.toNat h0)
    exact ⟨tracked, rfl, hpos, .inl rfl, fun h => absurd h Bool.false_ne_true⟩
  | forgetFirst hst =>
    obtain ⟨tracked, hiv, hpos, hchan, -⟩ := (stageReady_increment hst).1 hready
    exact Iff.mpr (stageReady_increment hst) ⟨tracked, hiv, hpos, hchan, fun h => absurd h Bool.false_ne_true⟩
  | probeFirst hst hf | probeFirstIfOther hst hf =>
    obtain ⟨tracked, hiv, hpos, -, -⟩ := (stageReady_increment hst).1 hready
    have contra (h : s.hpFirstValid = true) : s.params.probeA = s.params.probeB := absurd (hf.symm.trans h) (by decide)
    exact Iff.mpr (stageReady_increment hst) ⟨tracked, hiv, hpos, .inl rfl, contra⟩
  | probeSecond hst =>
    obtain ⟨tracked, hiv, hpos, -, -⟩ := (stageReady_increment hst).1 hready
    exact Iff.mpr (stageReady_increment hst) ⟨tracked, hiv, hpos, .inr rfl, fun _ => rfl⟩
  | succeed p hst hi =>
    obtain ⟨tracked, hiv, -, hchan, -⟩ := (stageReady_increment hst).1 hready
    exact ⟨tracked, hiv, rfl, hchan.elim (fun h => h ▸ probeA_le hs) (fun h => h ▸ probeB_le hs)⟩
  | connect => exact ⟨⟨rfl, rfl⟩, rfl, rfl, dataChan_le _⟩
  | retime v hl =>
    have hst := tripleLegal_of_connected ht hl
    exact Iff.mpr (stageReady_follow hst) ((stageReady_follow hst).1 hready)
  | hop hl =>
    have hst := tripleLegal_of_connected ht hl
    obtain ⟨tracked, hiv, hinc, -⟩ := (stageReady_follow hst).1 hready
    exact Iff.mpr (stageReady_follow hst) ⟨tracked, hiv, hinc, dataChan_le _⟩

end Values

/-- Settles O11: the writes keep the triple, the ranges and the stage's values together. -/
theorem valueInvariantKept : Obligations.ValueInvariantKept := by
  intro s t hrows hvalues h
  obtain ⟨hrange, hready⟩ := valuesWf_iff.1 hvalues
  have kept : t.TripleLegal ∧ t.InRange ∧ t.StageReady :=
    step_keeps (P := fun s => s.TripleLegal ∧ s.InRange ∧ s.StageReady)
      (fun _ _ ⟨ht, hs, hready⟩ hw => ⟨hw.tripleLegal ht, hw.inRange hs hready, hw.stageReady ht hs hready⟩)
      ⟨rowsHolding_eq_one.1 hrows, hrange, hready⟩ h
  exact valuesWf_iff.2 kept.2

end Sys2Proof.Machine
end

section
/-! PROOFS. The state after reset (R64, R341): its values, and that it meets every invariant. -/

namespace Sys2Proof.Machine

/-- The open parameters are bounded by their types, the decided ones by their values (U18). -/
theorem params_wf : Config.params.Wf := by
  have hlen : Config.params.maxPduLen < 259 := Config.maxPduLen.isLt
  exact ⟨Nat.le_add_left _ _, by omega, by decide, by decide, by decide⟩

theorem reset_pb (b : Fin 4) : State.reset.pb[b] = Buffer.reset := Vector.getElem_replicate _

theorem reset_ac (i : Fin 32) : State.reset.ac[i] = AcSlot.reset := Vector.getElem_replicate _

theorem reset_tag (b : Fin 4) : State.reset.pb[b].tag = .free := congrArg Buffer.tag (reset_pb b)

theorem reset_slot_valid (i : Fin 32) : State.reset.ac[i].valid = false := congrArg AcSlot.valid (reset_ac i)

/-- All buffers are free, the queue is empty and nothing is written (R64). -/
theorem reset_poolWf : State.reset.PoolWf := by
  have notTagged (b : Fin 4) {g : Tag} (hg : g ≠ .free) : State.reset.pb[b].tag ≠ g := by
    rw [reset_tag]
    exact hg.symm
  refine ⟨fun a _ ha => absurd ha (notTagged a (by decide)), List.nodup_nil, fun b => ?_, fun b => ?_,
    fun b hb => absurd hb (notTagged b (by decide)), fun b hb => absurd hb (notTagged b (by decide)), fun b => ?_⟩
  · exact iff_of_false List.not_mem_nil (notTagged b (by decide))
  · rw [reset_pb]
    decide
  · rw [reset_pb]
    exact ⟨rfl, nofun⟩

theorem reset_inRange : State.reset.InRange where
  params := params_wf
  chan := by decide
  discChan := by decide
  rtChan := by decide
  pb b := by
    rw [reset_pb]
    decide
  whCap := by decide
  whProc := by decide
  hopinc := nofun
  seed := nofun
  hiMatch := by decide

/-- Settles O12: at reset nothing is tagged, valid or known, and the block is idle. -/
theorem resetMeetsInvariants : Obligations.ResetMeetsInvariants :=
  ⟨params_wf, rowsHolding_eq_one.2 (.inl ⟨rfl, rfl, rfl⟩), reset_poolWf, cacheWf_of_none_valid reset_slot_valid,
    valuesWf_iff.2 ⟨reset_inRange, trivial⟩⟩

/-- Settles O13: the values are those of `State.reset`, and any operation ends (`exec_total`). -/
theorem resetValues : Obligations.ResetValues := by
  refine ⟨⟨rfl, rfl, rfl⟩, ⟨rfl, rfl, rfl, rfl, rfl, rfl, rfl, rfl, rfl, reset_slot_valid, rfl, rfl⟩, ?_,
    ⟨reset_tag, rfl, rfl⟩, fun g i => exec_total i (State.reset.as g)⟩
  exact ⟨rfl, rfl, rfl, rfl, rfl, rfl, rfl, rfl, rfl, rfl, rfl, rfl, rfl, rfl⟩

end Sys2Proof.Machine
end

section
/-! PROOFS. A value element whose flag is 0 is read by no operation (R48): with every such value blanked (`State.shown`) an
operation answers the same and leaves the same state, up to such values. -/

namespace Sys2Proof.Machine

/-! ### Blanking -/

@[simp] theorem shown_false {w : Nat} (v : BitVec w) : shown false v = 0 := rfl

@[simp] theorem shown_true {w : Nat} (v : BitVec w) : shown true v = v := rfl

@[simp] theorem shown_shown {w : Nat} (flag : Bool) (v : BitVec w) : shown flag (shown flag v) = shown flag v := by
  cases flag with
  | false => rfl
  | true => rfl

@[simp] theorem orZero_shown {w : Nat} (flag : Bool) (v : BitVec w) : orZero flag (shown flag v) = orZero flag v := by
  cases flag with
  | false => rfl
  | true => rfl

@[simp] theorem AcSlot.shown_shown (e : AcSlot) : e.shown.shown = e.shown := by simp [AcSlot.shown]

@[simp] theorem WhCtx.shown_shown (c : WhCtx) : c.shown.shown = c.shown := by simp [WhCtx.shown]

@[simp] theorem State.shown_shown (s : State) : s.shown.shown = s.shown := by simp [State.shown]

theorem AcSlot.shown_of_valid {e : AcSlot} (h : e.valid = true) : e.shown = e := by
  obtain ⟨valid, aa, count⟩ := e
  cases h
  rfl

theorem WhCtx.shown_of_loaded {c : WhCtx} (h : c.loaded = true) : c.shown = c := by
  obtain ⟨loaded, ch, pos⟩ := c
  cases h
  rfl

/-- Updates of elements without a flag commute with the blanking. -/
theorem shown_of_comm {u v : State} (h : u = v.shown) : u.shown = v.shown := by rw [h, State.shown_shown]

/-! ### Updates that read no blanked value -/

/-- What an update leaves does not depend on blanked values, but for blanked values. -/
def Unreading (f : State → State) : Prop := ∀ s : State, (f s.shown).shown = (f s).shown

theorem Unreading.congr {f : State → State} (hf : Unreading f) {u v : State} (h : u.shown = v.shown) :
    (f u).shown = (f v).shown := by rw [← hf u, h, hf v]

theorem unreading_forget : Unreading State.forget := by
  intro s
  simp [State.shown, State.forget, AcSlot.shown]

theorem unreading_enter (m : Mode) (l : LState) (st : Stage) : Unreading fun s => s.enter m l st := by
  intro s
  simp [State.shown, State.enter]

theorem unreading_tune (c : Byte) : Unreading fun s => s.tune c := by
  intro s
  simp [State.shown, State.tune]

theorem unreading_tuneIfOther (c : Byte) : Unreading fun s => s.tuneIfOther c := by
  intro s
  by_cases h : s.chan = c
  · simp [State.shown, State.tuneIfOther, h]
  · simp [State.shown, State.tuneIfOther, h]

theorem unreading_dropFirst : Unreading fun s => { s with hpFirstValid := false } := by
  intro s
  simp [State.shown]

theorem unreading_reseeded : Unreading State.reseeded := fun s =>
  (unreading_tuneIfOther s.discChan).congr ((unreading_enter s.mode .listening .discovery).congr (unreading_forget s))

theorem unreading_shutDown : Unreading State.shutDown := fun s => (unreading_enter .off .inactive .idle).congr (unreading_forget s)

theorem unreading_unlink : Unreading State.unlink := by
  intro s
  unfold State.unlink
  by_cases hm : s.mode = .promisc
  · rw [if_pos hm, if_pos (show s.shown.mode = _ from hm)]
    exact unreading_reseeded s
  · rw [if_neg hm, if_neg (show ¬s.shown.mode = _ from hm)]
    exact unreading_shutDown s

theorem unreading_startFollow (ch : Byte) : Unreading fun s => s.startFollow ch := fun s =>
  (unreading_tune ch).congr ((unreading_enter .follow .listening .idle).congr (unreading_forget s))

theorem unreading_startDiscovery (ch : Byte) : Unreading fun s => s.startDiscovery ch := by
  intro s
  simp [State.shown, State.startDiscovery, State.forget, State.enter, AcSlot.shown]

theorem unreading_know (aa : Word) : Unreading fun s => { s with aa := aa, aaValid := true } := by
  intro s
  simp [State.shown]

theorem unreading_track (aa : Word) : Unreading fun s => s.track aa := fun s =>
  (unreading_know aa).congr ((unreading_tuneIfOther s.discChan).congr
    ((unreading_enter s.mode .listening .crcRecovery).congr (unreading_forget s)))

theorem unreading_promote (aa : Word) : Unreading fun s => s.promote aa := fun s =>
  (unreading_know aa).congr (unreading_enter s.mode s.lstate .crcRecovery s)

theorem unreading_clearCache : Unreading State.clearCache := by
  intro s
  simp [State.shown, State.clearCache, AcSlot.shown]

theorem unreading_connect (q : ConnRequest) : Unreading fun s => s.connect q := by
  intro s
  simp [State.shown, State.connect, State.enter, State.tune]

theorem unreading_recoverSeed (p : PacketView) : Unreading fun s => s.recoverSeed p := by
  intro s
  simp [State.shown, State.recoverSeed, State.enterInterval, State.enter]

theorem unreading_freeze : Unreading State.freeze := by
  intro s
  simp [State.shown, State.freeze, State.enterIncrement, State.enter, State.tune]

theorem unreading_succeed (p : PacketView) (inc : Byte) : Unreading fun s => s.succeed p inc := by
  intro s
  simp [State.shown, State.succeed, State.enter]

theorem unreading_firstHalf (ts : Ts) (c : Byte) :
    Unreading fun s => { s.tune c with hpFirstTs := ts, hpFirstValid := true } := by
  intro s
  simp [State.shown, State.tune]

theorem unreading_takeMailbox : Unreading fun s => { s with rtPending := false } := by
  intro s
  simp [State.shown]

theorem unreading_update (winSize : Byte) (instant interval winOffset : Half) :
    Unreading fun s => { s with
      updWinSize := winSize, updWinOffset := winOffset, updInterval := interval, updInstant := instant, updPending := true } := by
  intro s
  simp [State.shown]

/-! ### Outcomes alike -/

/-- An outcome with the blanked values of its state blanked. -/
def shownResult : Result → Result
  | .next t => .next t.shown
  | .fault e => .fault e
  | .refused e => .refused e

/-- Two outcomes with the same answers, whose states differ in blanked values alone. -/
def Alike (k l : Result) : Prop := shownResult k = shownResult l

/-- A choice on a condition that reads no blanked value, seen through any blanking `g`. -/
theorem choice_alike {α β : Type} {g : α → β} {c : Prop} {_ : Decidable c} {a a' b b' : α} (h : c → g a = g a')
    (h' : ¬c → g b = g b') : g (if c then a else b) = g (if c then a' else b') := by
  split
  · next hc => exact h hc
  · next hc => exact h' hc

theorem Alike.choice {c : Prop} {_ : Decidable c} {k k' l l' : Result} (h : c → Alike k k') (h' : ¬c → Alike l l') :
    Alike (if c then k else l) (if c then k' else l') := choice_alike (g := shownResult) h h'

theorem Alike.reply {u v : State} {r : Response} (h : u.shown = v.shown) : Alike (reply u r) (reply v r) :=
  congrArg (fun w : State => (.next (w.answer r) : Result)) h

theorem Alike.reply_of_eq {u v : State} {r r' : Response} (h : u.shown = v.shown) (hr : r = r') :
    Alike (Machine.reply u r) (Machine.reply v r') := hr ▸ .reply h

theorem Alike.raise {u v : State} {st : Status} (h : u.shown = v.shown) : Alike (raise u st) (raise v st) := Alike.reply h

theorem Alike.served {op : Op} {s : State} {k l : Result} (h : Alike k l) : Alike (served op s.shown k) (served op s l) :=
  .choice (fun _ => h) (fun _ => .raise s.shown_shown)

theorem Alike.dropMalformed {s : State} {b : Fin 4} : Alike (dropMalformed s.shown b) (dropMalformed s b) :=
  .raise (shown_of_comm rfl)

/-! ### Stream contexts and cache slots -/

theorem State.whc_shown (s : State) : s.shown.whc = s.whc.shown := by
  cases h : s.agent with
  | cap => simp [State.whc, State.shown, h]
  | proc => simp [State.whc, State.shown, h]

theorem State.setWhc_shown (s : State) (c : WhCtx) : (s.setWhc c).shown = s.shown.setWhc c.shown := by
  cases h : s.agent with
  | cap => simp [State.setWhc, State.shown, h]
  | proc => simp [State.setWhc, State.shown, h]

theorem unreading_setWhc (c : WhCtx) : Unreading fun s => s.setWhc c := by
  intro s
  rw [State.setWhc_shown, State.setWhc_shown, State.shown_shown]

theorem State.ac_shown (s : State) (i : Fin 32) : s.shown.ac[i] = s.ac[i].shown := by simp [State.shown]

theorem State.setSlot_shown (s : State) (j : Fin 32) (e : AcSlot) : (s.setSlot j e).shown = s.shown.setSlot j e.shown := by
  simp [State.setSlot, State.shown, Vector.map_set]

theorem State.ac_shown_of_valid {s : State} {i : Fin 32} (h : s.ac[i].valid = true) : s.shown.ac[i] = s.ac[i] := by
  rw [s.ac_shown, AcSlot.shown_of_valid h]

/-- Whether a slot holds an address reads the address of a valid slot only (R210). -/
theorem AcSlot.holds_shown (e : AcSlot) (aa : Word) : (e.shown.valid && e.shown.aa == aa) = (e.valid && e.aa == aa) := by
  cases h : e.valid with
  | false => simp [AcSlot.shown, h]
  | true => simp [AcSlot.shown, h]

theorem State.holding_shown (s : State) (aa : Word) : s.shown.holding aa = s.holding aa := by
  unfold State.holding
  congr 1
  funext i
  rw [s.ac_shown, AcSlot.holds_shown]

theorem State.vacant_shown (s : State) : s.shown.vacant = s.vacant := by
  unfold State.vacant
  congr 1
  funext i
  rw [s.ac_shown]
  rfl

theorem State.leastSeen_shown {s : State} (h : ∀ i : Fin 32, s.ac[i].valid = true) : s.shown.leastSeen = s.leastSeen := by
  unfold State.leastSeen
  simp only [State.ac_shown_of_valid (h _)]

/-- A slot that holds an address is valid, and so are all slots when one is evicted: a sighting reads no blanked value (R210). -/
theorem see_shown (s : State) (aa : Word) : see s.shown aa = ((see s aa).1.shown, (see s aa).2) := by
  unfold see
  rw [s.holding_shown, s.vacant_shown]
  cases hh : s.holding aa with
  | some j =>
    obtain ⟨⟨hv, -⟩, -⟩ := holding_some.1 hh
    dsimp only
    rw [State.ac_shown_of_valid hv, State.setSlot_shown, AcSlot.shown_of_valid (by exact hv)]
  | none =>
    cases hv : s.vacant with
    | some j =>
      dsimp only
      rw [State.setSlot_shown, AcSlot.shown_of_valid (e := AcSlot.fresh aa) rfl]
    | none =>
      have all := vacant_none.1 hv
      dsimp only
      simp only [State.leastSeen_shown all]
      rw [State.ac_shown_of_valid (all _), State.setSlot_shown, AcSlot.shown_of_valid (e := AcSlot.fresh aa) rfl]

/-- A sighting writes one slot, which is valid afterwards (R210). -/
theorem see_setSlot (s : State) (aa : Word) :
    ∃ e : AcSlot, e.valid = true ∧ (see s aa).1 = s.setSlot (see s aa).2.slot e := by
  unfold see
  split
  · next j hj =>
    obtain ⟨⟨hv, -⟩, -⟩ := holding_some.1 hj
    refine ⟨_, ?_, rfl⟩
    exact hv
  · split
    · exact ⟨_, rfl, rfl⟩
    · exact ⟨_, rfl, rfl⟩

theorem see_slot_valid (s : State) (aa : Word) : (see s aa).1.ac[(see s aa).2.slot].valid = true := by
  obtain ⟨e, he, hs⟩ := see_setSlot s aa
  rw [hs, setSlot_ac, if_pos rfl]
  exact he

theorem seeResponse_shown (s : State) (aa : Word) (events : List Event) :
    seeResponse (see s aa).1.shown (see s aa).2 events = seeResponse (see s aa).1 (see s aa).2 events := by
  unfold seeResponse
  rw [State.ac_shown_of_valid (see_slot_valid s aa)]

/-! ### The scan -/

/-- A scan with the blanked values of its state blanked. -/
def Scan.shown (acc : Scan) : Scan := { acc with state := acc.state.shown }

theorem Scan.record_shown (acc : Scan) (ch : Byte) (p : Nat) (window : List Bool) :
    (acc.shown.record ch p window).shown = (acc.record ch p window).shown := by
  have seen : see acc.shown.state (windowAddress window) = _ := see_shown acc.state (windowAddress window)
  unfold Scan.record
  dsimp only
  rw [seen]
  refine choice_alike (fun _ => ?_) (fun _ => ?_)
  · have promoted := unreading_promote (windowAddress window) (see acc.state (windowAddress window)).1
    dsimp only at promoted
    unfold Scan.shown
    dsimp only
    rw [promoted]
    rfl
  · unfold Scan.shown
    dsimp only
    rw [State.shown_shown]

theorem scanFrom_shown (ch : Byte) (pats : List (List Bool)) (n p : Nat) (window : List Bool) (acc : Scan) :
    (scanFrom ch pats n p window acc.shown).shown = (scanFrom ch pats n p window acc).shown := by
  induction n generalizing p window acc with
  | zero => simp [scanFrom, Scan.shown]
  | succ n ih =>
    have recorded := acc.record_shown ch p window
    have same : (acc.shown.record ch p window).promoted = (acc.record ch p window).promoted :=
      (congrArg Scan.promoted recorded :)
    unfold scanFrom
    dsimp only
    rw [same]
    refine choice_alike (fun _ => choice_alike (fun _ => recorded) (fun _ => ?_)) (fun _ => ih _ _ acc)
    rw [← ih, recorded, ih]

theorem scan_shown (s : State) (ch : Byte) (data : List Byte) : (scan s.shown ch data).shown = (scan s ch data).shown :=
  scanFrom_shown ch (patterns ch) _ _ _ { state := s, found := 0, last := 0, promoted := false, events := [] }

/-! ### A packet presented -/

/-- What a handler leaves, with the blanked values of its state blanked. -/
def Handled.shown (h : Handled) : Handled := { h with state := h.state.shown }

theorem handled_alike {u v : State} {d : Disposition} {events : List Event} (h : u.shown = v.shown) :
    Handled.shown { state := u, disposition := d, events := events } =
      Handled.shown { state := v, disposition := d, events := events } := by
  unfold Handled.shown
  rw [h]

/-- One more event, emitted before the handler's (R237). -/
theorem handled_more {h k : Handled} {e : Event} (hk : h.shown = k.shown) :
    Handled.shown { h with events := e :: h.events } = Handled.shown { k with events := e :: k.events } := by
  obtain ⟨hs, hd, he⟩ := (Handled.mk.injEq ..).mp hk
  unfold Handled.shown
  dsimp only at *
  rw [hs, hd, he]

theorem State.aa_shown {s : State} (h : s.aaValid = true) : s.shown.aa = s.aa := by simp [State.shown, h]

theorem State.crcLfsr_shown {s : State} (h : s.crcVerified = true) : s.shown.crcLfsr = s.crcLfsr := by simp [State.shown, h]

theorem State.interval_shown {s : State} (h : s.intervalValid = true) : s.shown.interval = s.interval := by simp [State.shown, h]

theorem State.hopinc_shown {s : State} (h : s.hopincValid = true) : s.shown.hopinc = s.hopinc := by simp [State.shown, h]

theorem State.hpFirstTs_shown {s : State} (h : s.hpFirstValid = true) : s.shown.hpFirstTs = s.hpFirstTs := by
  simp [State.shown, h]

theorem State.rtChan_shown {s : State} (h : s.rtPending = true) : s.shown.rtChan = s.rtChan := by simp [State.shown, h]

theorem stageCrc_shown (s : State) (b : Fin 4) (p : PacketView) : (stageCrc s.shown b p).shown = (stageCrc s b p).shown :=
  choice_alike (fun _ => handled_alike (unreading_recoverSeed p s)) (fun _ => handled_alike s.shown_shown)

theorem stageInterval_shown (s : State) (p : PacketView) : (stageInterval s.shown p).shown = (stageInterval s p).shown := by
  refine choice_alike (fun _ => handled_alike s.shown_shown) (fun _ => ?_)
  refine choice_alike (fun _ => choice_alike (fun _ => ?_) (fun _ => ?_)) (fun _ => ?_)
  · exact handled_alike (unreading_freeze.congr (shown_of_comm rfl))
  · exact handled_alike (shown_of_comm rfl)
  · exact handled_alike (shown_of_comm rfl)

theorem inconclusive_shown (s : State) : (inconclusive s.shown).shown = (inconclusive s).shown := by
  have counted : s.shown.countRetry.shown = s.countRetry.shown := shown_of_comm rfl
  refine choice_alike (fun _ => ?_) (fun _ => ?_)
  · exact handled_alike (unreading_reseeded.congr counted)
  · exact handled_alike (unreading_dropFirst.congr ((unreading_tune s.params.probeA).congr counted))

/-- The probe stage reads the interval, which is valid in it, and the time of a first half that it has (R248). -/
theorem stageIncrement_shown {s : State} (p : PacketView) (hiv : s.intervalValid = true) :
    (stageIncrement s.shown p).shown = (stageIncrement s p).shown := by
  refine choice_alike (fun _ => handled_alike (unreading_firstHalf p.ts s.params.probeB s)) (fun _ => ?_)
  refine choice_alike (fun hsecond => ?_) (fun _ => ?_)
  · have hparams : s.shown.params = s.params := rfl
    rw [State.interval_shown hiv, State.hpFirstTs_shown (s := s) hsecond.2, hparams]
    cases hopInv (hopsMod s.params s.interval (tdiff p.ts s.hpFirstTs)) with
    | some inv => exact handled_alike (unreading_succeed p (increment s.params inv) s)
    | none => exact inconclusive_shown s
  · exact handled_alike (unreading_dropFirst.congr (unreading_tuneIfOther s.params.probeA s))

theorem stageFollow_shown (s : State) (p : PacketView) : (stageFollow s.shown p).shown = (stageFollow s p).shown :=
  choice_alike (fun _ => handled_alike (shown_of_comm rfl)) (fun _ => handled_alike (shown_of_comm rfl))

theorem stageHandler_shown {s : State} (p : PacketView) (hready : s.StageReady) :
    (stageHandler s.shown p).shown = (stageHandler s p).shown := by
  have hstage : s.shown.stage = s.stage := rfl
  unfold stageHandler
  rw [hstage]
  split
  · exact stageInterval_shown s p
  · next hst =>
    obtain ⟨-, hiv, -⟩ := (stageReady_increment hst).1 hready
    exact stageIncrement_shown p hiv
  · exact stageFollow_shown s p
  · exact handled_alike s.shown_shown
  · exact handled_alike s.shown_shown
  · exact handled_alike s.shown_shown

/-- Past `CrcRecovery` the seed is known (R239). -/
theorem crcVerified_of_ready {s : State} (hready : s.StageReady) (hidle : ¬(s.stage = .idle ∨ s.stage = .discovery))
    (hcrc : s.stage ≠ .crcRecovery) : s.crcVerified = true := by
  cases hst : s.stage with
  | idle => exact absurd (.inl hst) hidle
  | discovery => exact absurd (.inr hst) hidle
  | crcRecovery => exact absurd hst hcrc
  | hopIntervalRecovery =>
    obtain ⟨⟨-, hseed⟩, -⟩ := (stageReady_interval hst).1 hready
    exact hseed
  | hopIncrementRecovery =>
    obtain ⟨⟨-, hseed⟩, -⟩ := (stageReady_increment hst).1 hready
    exact hseed
  | connectionFollow =>
    obtain ⟨⟨-, hseed⟩, -⟩ := (stageReady_follow hst).1 hready
    exact hseed

theorem intake_shown {s : State} (b : Fin 4) (hready : s.StageReady) : (intake s.shown b).shown = (intake s b).shown := by
  refine choice_alike (fun _ => handled_alike s.shown_shown) (fun hidle => ?_)
  by_cases ha : s.aaValid = true
  · rw [State.aa_shown ha]
    refine choice_alike (fun _ => handled_alike s.shown_shown) (fun _ => ?_)
    refine choice_alike (fun _ => stageCrc_shown s b _) (fun hcrc => ?_)
    rw [State.crcLfsr_shown (crcVerified_of_ready hready hidle hcrc)]
    refine choice_alike (fun _ => handled_alike s.shown_shown) (fun _ => ?_)
    exact handled_more (stageHandler_shown s.pb[b].view hready)
  · have hunset : s.aaValid = false := by simpa using ha
    rw [if_pos (.inl hunset), if_pos (.inl hunset)]
    exact handled_alike s.shown_shown

/-! ### Time, events and reports -/

/-- A latched start of the stage's timeout is not blanked (R26). -/
theorem State.latch_shown (s : State) (now : Ts) : s.shown.latch now = (s.latch now).shown := by
  cases h : s.stageTsValid with
  | false => simp [State.latch, State.shown, h]
  | true => simp [State.latch, State.shown, h]

/-- The timeouts' outcome with the blanked values of its state blanked. -/
def shownTimeouts (r : Option (State × List Event)) : Option (State × List Event) := r.map fun x => (x.1.shown, x.2)

theorem timeouts_shown {s : State} (now : Ts) (hts : s.stageTsValid = true) :
    shownTimeouts (timeouts s.shown now) = shownTimeouts (timeouts s now) := by
  have hstart : s.shown.stageTs = s.stageTs := by simp [State.shown, hts]
  have left {f : State → State} (hf : Unreading f) (events : List Event) :
      shownTimeouts (some (f s.shown, events)) = shownTimeouts (some (f s, events)) :=
    congrArg (fun u => some (u, events)) (hf s)
  unfold timeouts
  rw [hstart]
  refine choice_alike (fun _ => left unreading_reseeded _) (fun _ => ?_)
  refine choice_alike (fun _ => left unreading_reseeded _) (fun _ => ?_)
  exact choice_alike (fun _ => left unreading_unlink _) (fun _ => rfl)

/-- The hop reads the increment, which is valid in a connection (R250, R275, R283). -/
theorem State.hop_shown {s : State} (h : s.hopincValid = true) : s.shown.hop.shown = s.hop.shown := by
  unfold State.hop
  rw [State.hopinc_shown h]
  exact unreading_tune _ s

theorem State.updateDue_shown (s : State) : s.shown.updateDue = s.updateDue := by
  cases h : s.updPending with
  | false => simp [State.updateDue, State.shown, h]
  | true => simp [State.updateDue, State.shown, h]

/-- What the hop leaves, of two states that differ in blanked values alone. -/
theorem State.hop_congr {u v : State} (hu : u.hopincValid = true) (hv : v.hopincValid = true) (h : u.shown = v.shown) :
    u.hop.shown = v.hop.shown := by rw [← State.hop_shown hu, h, State.hop_shown hv]

/-- A pending update is not blanked (R37). -/
theorem State.applyUpdate_shown {s : State} (h : s.updPending = true) : s.shown.applyUpdate.shown = s.applyUpdate.shown := by
  simp [State.applyUpdate, State.shown, h]

theorem State.updateEvent_shown {s : State} (h : s.updPending = true) :
    s.shown.applyUpdate.updateEvent = s.applyUpdate.updateEvent := by
  simp [State.applyUpdate, State.updateEvent, State.shown, h]

theorem reportWords_shown (s : State) : reportWords s.shown = reportWords s := by
  simp [reportWords, stateWord, flagHalf, following, State.shown]

/-- The timeout registers have no flag (R41). -/
theorem State.setTimeout_shown (s : State) (which : Nat) (ticks : Word) :
    s.shown.setTimeout which ticks = (s.setTimeout which ticks).map State.shown := by
  unfold State.setTimeout
  split
  · rfl
  · rfl
  · rfl
  · rfl

/-! ### Every operation -/

theorem execWhStep_shown (nbits : Byte) (s : State) : Alike (execWhStep nbits s.shown) (execWhStep nbits s) := by
  refine .served (.choice (fun _ => .raise s.shown_shown) (fun _ => ?_))
  rw [s.whc_shown]
  refine .choice (fun _ => .raise s.shown_shown) (fun hl => ?_)
  rw [WhCtx.shown_of_loaded (c := s.whc) (eq_true_of_ne_false hl)]
  exact .reply (unreading_setWhc _ s)

theorem execWhXors_shown (data : List Byte) (s : State) : Alike (execWhXors data s.shown) (execWhXors data s) := by
  refine .served (.choice (fun _ => .raise s.shown_shown) (fun _ => ?_))
  rw [s.whc_shown]
  refine .choice (fun _ => .raise s.shown_shown) (fun hl => ?_)
  rw [WhCtx.shown_of_loaded (c := s.whc) (eq_true_of_ne_false hl)]
  exact .reply (unreading_setWhc _ s)

theorem execAcSee_shown (aa : Word) (s : State) : Alike (execAcSee aa s.shown) (execAcSee aa s) := by
  refine .served (.choice (fun _ => ?_) (fun _ => .raise s.shown_shown))
  dsimp only
  rw [see_shown]
  refine .choice (fun _ => ?_) (fun _ => ?_)
  · exact .reply_of_eq (unreading_promote aa _) (seeResponse_shown s aa _)
  · exact .reply_of_eq (State.shown_shown _) (seeResponse_shown s aa _)

theorem execAcScan_shown (ch : Byte) (data : List Byte) (s : State) :
    Alike (execAcScan ch data s.shown) (execAcScan ch data s) := by
  have scanned := scan_shown s ch data
  obtain ⟨hstate, hfound, hlast, hpromoted, hevents⟩ := (Scan.mk.injEq ..).mp scanned
  refine .served (.choice (fun _ => .raise s.shown_shown) (fun _ => .choice (fun _ => ?_) (fun _ => .raise s.shown_shown)))
  dsimp only at *
  rw [hfound, hlast, hpromoted, hevents]
  exact .reply hstate

theorem execAcGet_shown (slot : Byte) (s : State) : Alike (execAcGet slot s.shown) (execAcGet slot s) := by
  refine .served ?_
  cases slotIndex slot with
  | none => exact .raise s.shown_shown
  | some i =>
    dsimp only
    rw [s.ac_shown]
    refine .choice (fun hv => ?_) (fun _ => .reply s.shown_shown)
    rw [AcSlot.shown_of_valid (by exact hv)]
    exact .reply s.shown_shown

theorem execPrPkt_shown {s : State} (buf : Byte) (hready : s.StageReady) : Alike (execPrPkt buf s.shown) (execPrPkt buf s) := by
  refine .served ?_
  cases bufIndex buf with
  | none => exact .raise s.shown_shown
  | some b =>
    refine .choice (fun _ => ?_) (fun _ => .raise s.shown_shown)
    obtain ⟨hstate, hdisposition, hevents⟩ := (Handled.mk.injEq ..).mp (intake_shown b hready)
    have hstage : (intake s.shown b).state.stage = (intake s b).state.stage := (congrArg State.stage hstate :)
    dsimp only at *
    rw [hdisposition, hevents, hstage]
    exact .reply hstate

theorem execTick_shown (now : Ts) (s : State) : Alike (execTick now s.shown) (execTick now s) := by
  refine .served (.choice (fun _ => .reply s.shown_shown) (fun _ => ?_))
  rw [s.latch_shown]
  have passed : shownTimeouts (timeouts (s.latch now).shown now) = shownTimeouts (timeouts (s.latch now) now) :=
    timeouts_shown now rfl
  cases h : timeouts (s.latch now).shown now with
  | none =>
    cases h' : timeouts (s.latch now) now with
    | none => exact .reply (State.shown_shown _)
    | some x =>
      rw [h, h'] at passed
      cases passed
  | some x =>
    cases h' : timeouts (s.latch now) now with
    | none =>
      rw [h, h'] at passed
      cases passed
    | some y =>
      rw [h, h'] at passed
      obtain ⟨hstate, hevents⟩ := Prod.mk.inj (Option.some.inj passed)
      dsimp only
      rw [hevents]
      exact .reply hstate

theorem execLsEvent_shown {s : State} (ht : s.TripleLegal) (hready : s.StageReady) :
    Alike (execLsEvent s.shown) (execLsEvent s) := by
  refine .served (.choice (fun hl => ?_) (fun _ => .raise s.shown_shown))
  obtain ⟨-, -, hinc, -⟩ := (stageReady_follow (tripleLegal_of_connected ht hl)).1 hready
  have hcount : s.shown.countEvent = s.countEvent.shown := rfl
  dsimp only
  rw [hcount, State.updateDue_shown]
  refine .choice (fun hdue => ?_) (fun _ => ?_)
  · have hpending : s.countEvent.updPending = true := (Bool.and_eq_true_iff.1 hdue).1
    have hopped := State.hop_congr (u := s.countEvent.shown.applyUpdate) (v := s.countEvent.applyUpdate) hinc hinc
      (State.applyUpdate_shown hpending)
    have hchan : s.countEvent.shown.applyUpdate.hop.chan = s.countEvent.applyUpdate.hop.chan := (congrArg State.chan hopped :)
    rw [State.updateEvent_shown hpending, hchan]
    exact .reply hopped
  · have hopped : s.countEvent.shown.hop.shown = s.countEvent.hop.shown := State.hop_shown hinc
    have hchan : s.countEvent.shown.hop.chan = s.countEvent.hop.chan := (congrArg State.chan hopped :)
    rw [hchan]
    exact .reply hopped

/-- With every blanked value out of reach an operation does the same (R48). The cases are grouped by the shape of the body. -/
theorem exec_shown {s : State} (i : Instr) (ht : s.TripleLegal) (hready : s.StageReady) : Alike (exec i s.shown) (exec i s) := by
  have same := s.shown_shown
  have hcap : s.shown.capturing = s.capturing := rfl
  unfold exec
  cases i with
  | cmAdv | crcRev24 | pbStat | prGetcv => exact .served (.reply same)
  | cmI2f | whXor | whRefl | crcFwd | crcFwdt | crcRev | crcChk =>
    exact .served (.choice (fun _ => .raise same) (fun _ => .reply same))
  | cmHop => exact .served (.choice (fun _ => .raise same) (fun _ => .choice (fun _ => .raise same) (fun _ => .reply same)))
  | cmF2i freq =>
    refine .served ?_
    cases freqChan freq.toNat with
    | none => exact .raise same
    | some k => exact .reply same
  | whLoad => exact .served (.choice (fun _ => .raise same) (fun _ => .reply (unreading_setWhc _ s)))
  | whStep nbits => exact execWhStep_shown nbits s
  | whXors data => exact execWhXors_shown data s
  | pbAcq =>
    have hfree : s.shown.findTag .free = s.findTag .free := rfl
    refine .served ?_
    rw [hcap, hfree]
    cases s.capturing with
    | some b => exact .raise same
    | none =>
      cases s.findTag .free with
      | none => exact .raise (shown_of_comm rfl)
      | some b => exact .reply (shown_of_comm rfl)
  | pbWrite =>
    refine .served (.choice (fun _ => .raise same) (fun _ => ?_))
    rw [hcap]
    cases s.capturing with
    | none => exact .raise same
    | some b =>
      exact .choice (fun _ => .dropMalformed) (fun _ => .choice (fun _ => .dropMalformed) (fun _ => .reply (shown_of_comm rfl)))
  | pbRssi | pbAbort =>
    refine .served ?_
    rw [hcap]
    cases s.capturing with
    | none => exact .raise same
    | some b => exact .reply (shown_of_comm rfl)
  | pbCommit =>
    refine .served (.choice (fun _ => .raise same) (fun _ => ?_))
    rw [hcap]
    cases s.capturing with
    | none => exact .raise same
    | some b => exact .choice (fun _ => .reply (shown_of_comm rfl)) (fun _ => .dropMalformed)
  | pbPoll =>
    have hpbq : s.shown.pbq = s.pbq := rfl
    refine .served ?_
    rw [hpbq]
    cases s.pbq with
    | nil => exact .raise same
    | cons b q => exact .reply same
  | pbRead buf =>
    refine .served ?_
    cases bufIndex buf with
    | none => exact .raise same
    | some b => exact .choice (fun _ => .reply same) (fun _ => .raise same)
  | pbRel buf =>
    refine .served ?_
    cases bufIndex buf with
    | none => exact .raise same
    | some b => exact .choice (fun _ => .reply (shown_of_comm rfl)) (fun _ => .raise same)
  | acClear => exact .served (.reply (unreading_clearCache s))
  | acSee aa => exact execAcSee_shown aa s
  | acScan ch data => exact execAcScan_shown ch data s
  | acGet slot => exact execAcGet_shown slot s
  | prStart ch =>
    exact .served (.choice (fun _ => .raise same)
      (fun _ => .choice (fun _ => .reply (unreading_startDiscovery ch s)) (fun _ => .raise same)))
  | lsFollow ch =>
    exact .served (.choice (fun _ => .raise same)
      (fun _ => .choice (fun _ => .reply (unreading_startFollow ch s)) (fun _ => .raise same)))
  | prStop | lsStop => exact .served (.choice (fun _ => .reply (unreading_shutDown s)) (fun _ => .raise same))
  | prPkt buf => exact execPrPkt_shown buf hready
  | tick now => exact execTick_shown now s
  | prReseed => exact .served (.choice (fun _ => .reply (unreading_reseeded s)) (fun _ => .raise same))
  | prGet => exact .served (.reply_of_eq same (by rw [reportWords_shown]))
  | prSetaa aa => exact .served (.choice (fun _ => .reply (unreading_track aa s)) (fun _ => .raise same))
  | prGetaa =>
    refine .served (.choice (fun ha => ?_) (fun _ => .reply same))
    rw [State.aa_shown (s := s) ha]
    exact .reply same
  | prSetcv => exact .served (.choice (fun _ => .raise same) (fun _ => .reply (shown_of_comm rfl)))
  | prSetto which ticks =>
    refine .served ?_
    rw [State.setTimeout_shown]
    cases s.setTimeout which.toNat ticks with
    | none => exact .raise same
    | some u => exact .reply u.shown_shown
  | lsFilter => exact .served (.reply (shown_of_comm rfl))
  | lsConnreq =>
    refine .served (.choice (fun _ => .raise same) (fun _ => .choice (fun _ => .raise same) (fun _ => ?_)))
    exact .choice (fun _ => .reply (unreading_connect _ s)) (fun _ => .reply same)
  | lsUpdate => exact .served (.choice (fun _ => .reply (unreading_update _ _ _ _ s)) (fun _ => .raise same))
  | lsEvent => exact execLsEvent_shown ht hready
  | lsCancel => exact .served (.choice (fun _ => .reply same) (fun _ => .reply (unreading_unlink s)))
  | rtTake =>
    refine .served (.choice (fun hp => ?_) (fun _ => .raise same))
    rw [State.rtChan_shown (s := s) hp]
    exact .reply (unreading_takeMailbox s)

/-- Settles O58: both states do as their blanked state, which is the same. -/
theorem guardedValuesUnread : Obligations.GuardedValuesUnread := by
  intro i s s' t hrows hvalues hvalues' hshown h
  have ht : s.TripleLegal := rowsHolding_eq_one.1 hrows
  have hrows' : s'.rowsHolding = s.rowsHolding := (congrArg State.rowsHolding hshown.symm :)
  have ht' : s'.TripleLegal := rowsHolding_eq_one.1 (hrows'.trans hrows)
  have alike : Alike (exec i s) (exec i s') := by
    have left := exec_shown i ht (valuesWf_iff.1 hvalues).2
    have right := exec_shown i ht' (valuesWf_iff.1 hvalues').2
    exact left.symm.trans (hshown ▸ right)
  obtain ⟨t', ht'⟩ := exec_total i s'
  rw [h, ht'] at alike
  exact ⟨t', ht', Host.Outcome.next.inj alike⟩

end Sys2Proof.Machine
end

section
/-! PROOFS. What `PR_PKT` does with a packet that passes both gates, and with that the hop-increment stage (R237, R239, R248 to
R251). -/

namespace Sys2Proof.Machine

/-! ### A packet past both gates -/

section Gates

variable {s : State} {b : Fin 4}

/-- Past `CrcRecovery` a packet on the tracked address that passes the CRC gate goes to its stage's handler (R237, R239). -/
theorem intake_handled (hst : s.stage.SeedKnown) (ha : s.aaValid = true) (hg : s.pb[b].passesGates s) :
    intake s b =
      { stageHandler s s.pb[b].view with
        events := .packet b (crcOk s.crcLfsr s.pb[b].bytes) true s.aa s.pb[b].ts :: (stageHandler s s.pb[b].view).events } := by
  obtain ⟨-, haa, hcrc⟩ := hg
  have hidle : ¬(s.stage = .idle ∨ s.stage = .discovery) := by
    rcases hst with h | h | h
    all_goals
      rw [h]
      decide
  have hseed : s.stage ≠ .crcRecovery := by
    rcases hst with h | h | h
    all_goals
      rw [h]
      decide
  have haddr : ¬(s.aaValid = false ∨ s.pb[b].view.aa ≠ s.aa) := by
    rintro (h | h)
    · exact absurd (ha.symm.trans h) (by decide)
    · exact h haa
  have hcheck : ¬(s.crcVerify = true ∧ crcOk s.crcLfsr s.pb[b].view.data = false) := by
    rintro ⟨hon, hbad⟩
    rcases hcrc with hoff | hok
    · exact absurd (hon.symm.trans hoff) (by decide)
    · exact absurd (hok.symm.trans hbad) (by decide)
  have hview : s.aa = s.pb[b].view.aa := haa.symm
  unfold intake
  dsimp only
  rw [if_neg hidle, if_neg haddr, if_neg hseed, if_neg hcheck, hview]
  rfl

theorem exec_prPkt_queued {buf : Byte} (hag : s.agent = .proc) (hb : buf.toNat = b.val) (hq : s.pb[b].tag = .queued) :
    exec (.prPkt buf) s = .next ((intake s b).state.answer
      { ra := (intake s b).disposition.code, rb := toHalf (intake s b).state.stage.code, events := (intake s b).events }) := by
  have hallowed : (rights .prPkt).allows s.agent = true := by rw [hag]; rfl
  have hrun : exec (.prPkt buf) s = execPrPkt buf s := rfl
  rw [hrun, execPrPkt, served_of_allowed hallowed, bufIndex_some.2 hb]
  exact if_pos hq

/-- A packet past both gates in `HopIncrementRecovery` is the handler's `stage_increment` (R237, R248). -/
theorem exec_prPkt_increment {buf : Byte} {h : Handled} (hag : s.agent = .proc) (hb : buf.toNat = b.val)
    (hst : s.stage = .hopIncrementRecovery) (ha : s.aaValid = true) (hg : s.pb[b].passesGates s)
    (hh : stageIncrement s s.pb[b].view = h) :
    exec (.prPkt buf) s = .next (h.state.answer
      { ra := h.disposition.code, rb := toHalf h.state.stage.code
        events := .packet b (crcOk s.crcLfsr s.pb[b].bytes) true s.aa s.pb[b].ts :: h.events }) := by
  have hstage : stageHandler s s.pb[b].view = h := by
    unfold stageHandler
    rw [hst]
    exact hh
  rw [exec_prPkt_queued hag hb hg.1, intake_handled (.inr (.inl hst)) ha hg, hstage]

end Gates

/-! ### The table of inverses and the retry count -/

/-- `HOPINV` holds the inverse modulo 37 of every number of hops but 0, where it holds none (R63, R249). -/
theorem hopInv_table :
    hopInv 0 = none ∧ ∀ k : Fin 37, k.val ≠ 0 →
      ∃ inv : Fin 37, hopInv k.val = some inv.val ∧ inv.val ≠ 0 ∧ k.val * inv.val % 37 = 1 := by
  decide

theorem hopInv_some {k : Nat} (hk : k < 37) (h0 : k ≠ 0) :
    ∃ inv, hopInv k = some inv ∧ 1 ≤ inv ∧ inv ≤ 36 ∧ k * inv % 37 = 1 := by
  obtain ⟨inv, hinv, hpos, hmul⟩ := hopInv_table.2 ⟨k, hk⟩ h0
  exact ⟨inv.val, hinv, by omega, by omega, hmul⟩

theorem toByte_succ (v : Byte) : toByte (v.toNat + 1) = v + 1 := by
  apply BitVec.eq_of_toNat_eq
  simp [toByte]

theorem probeDistance_eq {ps : Params} {d : Nat} (hd : (d : Int) = ((ps.probeB.toNat : Int) - ps.probeA.toNat) % 37) :
    probeDistance ps = d := by
  have hval : probeDistance ps = (((ps.probeB.toNat : Int) - ps.probeA.toNat) % 37).toNat := rfl
  rw [hval, ← hd, Int.toNat_natCast]

/-! ### The stage, outcome by outcome -/

section Outcomes

variable {s : State} {p : PacketView}

/-- The second half of a pair a number of hops not divisible by 37 after the first (R248, R250). -/
theorem stageIncrement_conclusive {inv : Nat} (hA : p.chan ≠ s.params.probeA) (hB : p.chan = s.params.probeB)
    (hf : s.hpFirstValid = true) (hinv : hopInv (hopsMod s.params s.interval (tdiff p.ts s.hpFirstTs)) = some inv) :
    stageIncrement s p =
      { state := s.succeed p (increment s.params inv), disposition := .accepted
        events := [.hopinc (increment s.params inv), .stage s.mode .connectionFollow .connected] } := by
  unfold stageIncrement
  rw [if_neg hA, if_pos ⟨hB, hf⟩, hinv]
  rfl

theorem stageIncrement_inconclusive (hA : p.chan ≠ s.params.probeA) (hB : p.chan = s.params.probeB)
    (hf : s.hpFirstValid = true) (hinv : hopInv (hopsMod s.params s.interval (tdiff p.ts s.hpFirstTs)) = none) :
    stageIncrement s p = inconclusive s := by
  unfold stageIncrement
  rw [if_neg hA, if_pos ⟨hB, hf⟩, hinv]

/-- One retry too many: the re-seed also forgets the count (R251, R236). -/
theorem inconclusive_exhausted (hmax : s.params.probeRetryMax < (s.hpRetries + 1).toNat) :
    inconclusive s =
      { state := s.reseeded, disposition := .inconclusive
        events := [.reseed .probesExhausted, .stage s.mode .discovery .listening] } := by
  unfold inconclusive
  dsimp only
  rw [toByte_succ, if_pos hmax]
  rfl

theorem inconclusive_retried (hmax : (s.hpRetries + 1).toNat ≤ s.params.probeRetryMax) :
    inconclusive s =
      { state := { s.tune s.params.probeA with hpRetries := s.hpRetries + 1, hpFirstValid := false }
        disposition := .inconclusive, events := [.probe (s.hpRetries + 1)] } := by
  unfold inconclusive
  dsimp only
  rw [toByte_succ, if_neg (Nat.not_lt.2 hmax)]
  rfl

/-- A packet that is no half of a pair starts the stage over. -/
theorem stageIncrement_other (hA : p.chan ≠ s.params.probeA) (hB : p.chan ≠ s.params.probeB ∨ s.hpFirstValid = false) :
    stageIncrement s p =
      { state := { s.tuneIfOther s.params.probeA with hpFirstValid := false }, disposition := .probeOther, events := [] } := by
  have hnot : ¬(p.chan = s.params.probeB ∧ s.hpFirstValid = true) := by
    rintro ⟨hc, hf⟩
    rcases hB with h | h
    · exact h hc
    · exact absurd (hf.symm.trans h) (by decide)
  unfold stageIncrement
  rw [if_neg hA, if_neg hnot]

end Outcomes

/-- Settles O47: the stage outcome by outcome, behind the gates. -/
theorem incrementStep : Obligations.IncrementStep := by
  intro buf s b k d pk hag hb hst ha hg hk hd hpk
  subst hpk
  have runs {h : Handled} (hh : stageIncrement s s.pb[b].view = h) := exec_prPkt_increment hag hb hst ha hg hh
  have hhops : hopsMod s.params s.interval (tdiff s.pb[b].view.ts s.hpFirstTs) = k := hk.symm
  refine ⟨fun hA => ?_, fun hA hB hf h0 => ?_, fun hA hB hf h0 hmax => ?_, fun hA hB hf h0 hmax => ?_, fun hA hB => ?_⟩
  · rw [runs (if_pos hA)]
    simp only [State.tune_stage, hst]
    rfl
  · obtain ⟨inv, hinv, hpos, hle, hmul⟩ := hopInv_some (hk ▸ Nat.mod_lt _ (by decide)) h0
    have hinc : (increment s.params inv).toNat = inv * d % 37 := by
      rw [increment, dataChan_toNat, probeDistance_eq hd]
    refine ⟨inv, increment s.params inv, hpos, hle, hmul, hinc, ?_⟩
    rw [runs (stageIncrement_conclusive hA hB hf (hhops ▸ hinv))]
    rfl
  · have retried := stageIncrement_inconclusive (s := s) (p := s.pb[b].view) hA hB hf (by rw [hhops, h0, hopInv_table.1])
    rw [runs (retried.trans (inconclusive_exhausted hmax))]
    rfl
  · have retried := stageIncrement_inconclusive (s := s) (p := s.pb[b].view) hA hB hf (by rw [hhops, h0, hopInv_table.1])
    rw [runs (retried.trans (inconclusive_retried hmax))]
    simp only [State.tune_stage, hst]
    rfl
  · rw [runs (stageIncrement_other hA hB)]
    simp only [State.tuneIfOther_stage, hst]
    rfl

end Sys2Proof.Machine
end

section
/-! PROOFS. The decoder (R100 to R102, R105, R108): the `OP` values, the fields of a command word and of a packed operand word, what
the framing takes off a stream, and from these which streams decode to an instruction: those that begin with a legal request
(`Requests.decode_eq`, `requests_of_decode`), and which framed requests are illegal (`decode_illegal`). -/

namespace Sys2Proof

open Machine

/-! ### The `OP` values (R104, R108) -/

theorem ofCode_code (op : Op) : Op.ofCode op.code = some op := by
  cases op <;> rfl

theorem ofCode_eq_some {c : Byte} {op : Op} : Op.ofCode c = some op ↔ op.code = c := by
  constructor
  · intro h
    simpa using List.find?_some h
  · rintro rfl
    exact ofCode_code op

theorem ofCode_eq_none {c : Byte} : Op.ofCode c = none ↔ ∀ op : Op, op.code ≠ c := by
  simp only [Option.eq_none_iff_forall_ne_some, ne_eq, ofCode_eq_some]

/-- The list of R108 against the table of R104, value by value. -/
theorem unlistedCode_iff_ofCode : ∀ c : Byte, UnlistedCode c.toNat ↔ Op.ofCode c = none := by
  decide +kernel

/-! ### Packed words (R12, R102, R104, R106) -/

theorem join_split {m n : Nat} (x : BitVec (m + n)) : x.extractLsb' n m ++ x.extractLsb' 0 n = x := by
  rw [BitVec.extractLsb'_append_extractLsb'_eq_extractLsb' (Nat.zero_add n).symm, BitVec.extractLsb'_eq_self]

theorem highBits_eq_zero {v k n : Nat} (hv : v = k + n) {x : BitVec v} : x.extractLsb' k n = 0#n ↔ x.toNat < 2 ^ k := by
  subst hv
  have hx : x.toNat / 2 ^ k < 2 ^ n := Nat.div_lt_of_lt_mul (by simpa [Nat.pow_add] using x.isLt)
  rw [← BitVec.toNat_inj, BitVec.extractLsb'_toNat, Nat.shiftRight_eq_div_pow, Nat.mod_eq_of_lt hx, BitVec.toNat_zero,
    Nat.div_eq_zero_iff_lt (by positivity)]

/-- A value widened with zeros is a value whose further bits are 0 (R102). -/
theorem eq_setWidth_iff {v k : Nat} (hk : k ≤ v) {x : BitVec v} {y : BitVec k} :
    x = y.setWidth v ↔ x.toNat < 2 ^ k ∧ x.setWidth k = y := by
  have hy : y.toNat < 2 ^ v := lt_of_lt_of_le y.isLt (Nat.pow_le_pow_right (by decide) hk)
  simp only [← BitVec.toNat_inj, BitVec.toNat_setWidth, Nat.mod_eq_of_lt hy]
  constructor
  · intro h
    exact ⟨h ▸ y.isLt, by rw [h, Nat.mod_eq_of_lt y.isLt]⟩
  · rintro ⟨hlt, h⟩
    rwa [Nat.mod_eq_of_lt hlt] at h

theorem operand24_eq_some {w : Word} {v : Crc} : operand24 w = some v ↔ w = v.setWidth 32 := by
  rw [eq_setWidth_iff (by decide), operand24, ← highBits_eq_zero (k := 24) (n := 8) rfl]
  split <;> simp [*]

theorem operand16_eq_some {w : Word} {v : Half} : operand16 w = some v ↔ w = v.setWidth 32 := by
  rw [eq_setWidth_iff (by decide), operand16, ← highBits_eq_zero (k := 16) (n := 16) rfl]
  split <;> simp [*]

theorem operand24_eq_none {w : Word} (h : 2 ^ 24 ≤ w.toNat) : operand24 w = none :=
  if_neg fun hz => absurd ((highBits_eq_zero rfl).1 hz) (by omega)

theorem operand16_eq_none {w : Word} (h : 2 ^ 16 ≤ w.toNat) : operand16 w = none :=
  if_neg fun hz => absurd ((highBits_eq_zero rfl).1 hz) (by omega)

@[simp] theorem operand24_setWidth (v : Crc) : operand24 (v.setWidth 32) = some v := operand24_eq_some.2 rfl

@[simp] theorem operand16_setWidth (v : Half) : operand16 (v.setWidth 32) = some v := operand16_eq_some.2 rfl

@[simp] theorem hiHalf_packHalves (hi lo : Half) : hiHalf (packHalves hi lo) = hi := BitVec.extractLsb'_append_eq_left

@[simp] theorem loHalf_packHalves (hi lo : Half) : loHalf (packHalves hi lo) = lo := BitVec.extractLsb'_append_eq_right

@[simp] theorem packHalves_halves (w : Word) : packHalves (hiHalf w) (loHalf w) = w := join_split (m := 16) (n := 16) w

@[simp] theorem packAddr_split (x : Addr48) : packAddr (x.extractLsb' 32 16) (x.extractLsb' 0 32) = x :=
  join_split (m := 16) (n := 32) x

@[simp] theorem packAddr_hi (hi : Half) (lo : Word) : (packAddr hi lo).extractLsb' 32 16 = hi :=
  BitVec.extractLsb'_append_eq_left

@[simp] theorem packAddr_lo (hi : Half) (lo : Word) : (packAddr hi lo).extractLsb' 0 32 = lo :=
  BitVec.extractLsb'_append_eq_right

/-! ### The command word (R100, R105) -/

@[simp] theorem fieldOp_cmdWord (op : Op) (a : Byte) (b : Half) : fieldOp (cmdWord op a b) = op.code :=
  (BitVec.extractLsb'_append_eq_of_add_le (by decide)).trans BitVec.extractLsb'_append_eq_right

@[simp] theorem fieldA_cmdWord (op : Op) (a : Byte) (b : Half) : fieldA (cmdWord op a b) = a :=
  (BitVec.extractLsb'_append_eq_of_add_le (by decide)).trans BitVec.extractLsb'_append_eq_left

@[simp] theorem fieldB_cmdWord (op : Op) (a : Byte) (b : Half) : fieldB (cmdWord op a b) = b :=
  BitVec.extractLsb'_append_eq_left

/-- A command word is its three fields. -/
theorem cmdWord_fields {op : Op} {cw : Word} (h : fieldOp cw = op.code) : cmdWord op (fieldA cw) (fieldB cw) = cw := by
  have low : fieldA cw ++ fieldOp cw = cw.extractLsb' 0 16 :=
    BitVec.extractLsb'_append_extractLsb'_eq_extractLsb' (start₁ := 0) (len₁ := 8) rfl
  rw [cmdWord, ← h, low]
  exact join_split (m := 16) (n := 16) cw

/-- The mask that a use of the field `B` puts on it. -/
def BUse.mask : BUse → Half
  | .unused => 0xFFFF#16
  | .low => 0xFF00#16
  | .whole => 0#16

theorem Format.mask_fields (f : Format) :
    f.mask = (f.b.mask ++ ((if f.a then 0#8 else 0xFF#8) ++ 0xFF#8) : BitVec (16 + (8 + 8))) := by
  unfold Format.mask
  cases f.a <;> cases f.b <;> rfl

theorem append_eq_append {m n : Nat} {x x' : BitVec m} {y y' : BitVec n} : x ++ y = x' ++ y' ↔ x = x' ∧ y = y' := by
  constructor
  · intro h
    have hx := congrArg (BitVec.extractLsb' n m) h
    have hy := congrArg (BitVec.extractLsb' 0 n) h
    rw [BitVec.extractLsb'_append_eq_left, BitVec.extractLsb'_append_eq_left] at hx
    rw [BitVec.extractLsb'_append_eq_right, BitVec.extractLsb'_append_eq_right] at hy
    exact ⟨hx, hy⟩
  · rintro ⟨rfl, rfl⟩
    rfl

theorem and_highByte {b : Half} : b &&& 0xFF00#16 = 0#16 ↔ b.toNat ≤ 0xFF := by
  have high : (b.extractLsb' 8 8 ++ b.extractLsb' 0 8) &&& (0xFF#8 ++ 0#8) = 0#8 ++ 0#8 ↔ b.extractLsb' 8 8 = 0#8 := by
    rw [BitVec.and_append, append_eq_append, BitVec.and_zero, show 0xFF#8 = BitVec.allOnes 8 from rfl, BitVec.and_allOnes]
    simp
  rw [join_split (m := 8) (n := 8) b] at high
  exact high.trans ((highBits_eq_zero rfl).trans Nat.lt_succ_iff)

/-- The fields that a format does not use are 0 (R100, R105). -/
structure FieldsFit (f : Format) (a : Byte) (b : Half) : Prop where
  a : f.a = false → a = 0
  unused : f.b = .unused → b = 0
  low : f.b = .low → b.toNat ≤ 0xFF

theorem and_mask_b (u : BUse) {b : Half} :
    b &&& u.mask = 0#16 ↔ (u = .unused → b = 0) ∧ (u = .low → b.toNat ≤ 0xFF) := by
  cases u with
  | unused =>
    rw [show BUse.unused.mask = BitVec.allOnes 16 from rfl, BitVec.and_allOnes]
    simp
  | low =>
    rw [BUse.mask, and_highByte]
    simp
  | whole => simp [BUse.mask]

theorem and_mask_a (used : Bool) {a : Byte} : a &&& (if used then 0#8 else 0xFF#8) = 0#8 ↔ (used = false → a = 0) := by
  cases used with
  | false =>
    rw [if_neg Bool.false_ne_true, show 0xFF#8 = BitVec.allOnes 8 from rfl, BitVec.and_allOnes]
    simp
  | true => simp

/-- The comparison of R105 is that no unused field is set. -/
theorem matches_iff {op : Op} {a : Byte} {b : Half} :
    cmdWord op a b &&& op.format.mask = op.code.setWidth 32 ↔ FieldsFit op.format a b := by
  have code : op.code.setWidth 32 = (0#16 ++ (0#8 ++ (op.code &&& 0xFF#8)) : BitVec (16 + (8 + 8))) := by
    cases op <;> rfl
  rw [Format.mask_fields, Laws.cmdWord_and, code, append_eq_append, append_eq_append, and_mask_b, and_mask_a]
  exact ⟨fun ⟨⟨hu, hl⟩, ha, _⟩ => ⟨ha, hu, hl⟩, fun ⟨ha, hu, hl⟩ => ⟨⟨hu, hl⟩, ha, rfl⟩⟩

theorem fieldsFit_iff {op : Op} {cw : Word} :
    FieldsFit op.format (fieldA cw) (fieldB cw) ↔ ¬UnusedFieldSet op cw := by
  constructor
  · rintro ⟨ha, hu, hl⟩ (⟨h, hne⟩ | ⟨h, hne⟩ | ⟨h, hlt⟩)
    · exact hne (ha h)
    · exact hne (hu h)
    · exact absurd (hl h) (by omega)
  · intro h
    push Not at h
    obtain ⟨ha, hu, hl⟩ := h
    exact ⟨ha, hu, hl⟩

/-! ### The framing (R100, R101) -/

theorem takeWords_append (ws : List Word) (r : List Beat) : takeWords ws.length (ws.map .word ++ r) = .ok (ws, r) := by
  induction ws with
  | nil => rfl
  | cons w ws ih => simp [takeWords, ih]

theorem eq_of_takeWords {n : Nat} {st r : List Beat} {ws : List Word} (h : takeWords n st = .ok (ws, r)) :
    ws.length = n ∧ st = ws.map .word ++ r := by
  fun_induction takeWords n st generalizing ws with
  | case1 =>
    cases h
    exact ⟨rfl, rfl⟩
  | case2 | case3 | case5 => cases h
  | case4 _ _ _ _ _ htail ih =>
    cases h
    obtain ⟨hlen, hst⟩ := ih htail
    exact ⟨congrArg (· + 1) hlen, congrArg _ hst⟩

theorem takeBytes_append (bs : List Byte) (r : List Beat) : takeBytes bs.length (bs.map .byte ++ r) = .ok (bs, r) := by
  induction bs with
  | nil => rfl
  | cons b bs ih => simp [takeBytes, ih]

theorem eq_of_takeBytes {n : Nat} {st r : List Beat} {bs : List Byte} (h : takeBytes n st = .ok (bs, r)) :
    bs.length = n ∧ st = bs.map .byte ++ r := by
  fun_induction takeBytes n st generalizing bs with
  | case1 =>
    cases h
    exact ⟨rfl, rfl⟩
  | case2 | case3 | case5 => cases h
  | case4 _ _ _ _ _ htail ih =>
    cases h
    obtain ⟨hlen, hst⟩ := ih htail
    exact ⟨congrArg (· + 1) hlen, congrArg _ hst⟩

/-- The operand words and data bytes that the format and the field `B` ask for (R101). -/
structure Framed (op : Op) (b : Half) (ws : List Word) (d : List Byte) : Prop where
  words : ws.length = op.format.words
  data : d.length = if op.format.data then b.toNat else 0

/-- One whole legal request: framed, its unused fields 0, and `i` what `operands` reads from it. -/
structure Requests (i : Instr) (op : Op) (a : Byte) (b : Half) (ws : List Word) (d : List Byte) : Prop where
  framed : Framed op b ws d
  fit : FieldsFit op.format a b
  reads : operands op a b ws d = some i

section Decoding

variable {op : Op} {a : Byte} {b : Half} {ws : List Word} {d : List Byte} {rest : List Beat} {i : Instr}

theorem Framed.bare (h : Framed op b ws d) (hw : op.format.words = 0) (hd : op.format.data = false) : ws = [] ∧ d = [] :=
  ⟨List.length_eq_zero_iff.1 (h.words.trans hw), List.length_eq_zero_iff.1 (h.data.trans (by rw [hd]; rfl))⟩

theorem request_append : request op a b ws d ++ rest = .word (cmdWord op a b) :: (ws.map .word ++ (d.map .byte ++ rest)) := by
  rw [request, List.cons_append, List.append_assoc]

/-- Past the framing, the decoder tests the unused fields and then the operand words (R108). -/
theorem decode_request (h : Framed op b ws d) :
    decode (request op a b ws d ++ rest) =
      if cmdWord op a b &&& op.format.mask = op.code.setWidth 32 then
        (operands op a b ws d).elim (.illegal .operandWord rest) (.instr · rest)
      else .illegal .unusedField rest := by
  have hw : takeWords op.format.words (ws.map .word ++ (d.map .byte ++ rest)) = .ok (ws, d.map .byte ++ rest) :=
    h.words ▸ takeWords_append ws _
  have hd : takeBytes (op.format.dataLength (cmdWord op a b)) (d.map .byte ++ rest) = .ok (d, rest) := by
    rw [Format.dataLength, fieldB_cmdWord, ← h.data, takeBytes_append]
  rw [request_append, decode]
  simp only [fieldOp_cmdWord, ofCode_code, hw, hd, fieldA_cmdWord, fieldB_cmdWord]
  cases operands op a b ws d <;> rfl

theorem Requests.decode_eq (h : Requests i op a b ws d) : decode (request op a b ws d ++ rest) = .instr i rest := by
  rw [decode_request h.framed, if_pos (matches_iff.2 h.fit), h.reads]
  rfl

theorem decode_illegal (h : Framed op b ws d) (hbad : ¬FieldsFit op.format a b ∨ operands op a b ws d = none) :
    ∃ why, decode (request op a b ws d ++ rest) = .illegal why rest := by
  rw [decode_request h]
  split
  · next hm =>
    rw [hbad.resolve_left (not_not_intro (matches_iff.1 hm))]
    exact ⟨_, rfl⟩
  · exact ⟨_, rfl⟩

theorem decode_unknown {cw : Word} (h : Op.ofCode (fieldOp cw) = none) : decode (.word cw :: rest) = .illegal .unknownOp rest := by
  rw [decode, h]

/-- A stream that decodes to an instruction begins with a legal request for it. -/
theorem requests_of_decode {st : List Beat} (h : decode st = .instr i rest) :
    ∃ op a b ws d, st = request op a b ws d ++ rest ∧ Requests i op a b ws d := by
  match st, h with
  | .word cw :: r, h =>
    rw [decode] at h
    split at h
    · cases h
    next op hop =>
    split at h
    · cases h
    next ws r1 hw =>
    split at h
    · cases h
    next d r2 hd =>
    obtain ⟨hws, rfl⟩ := eq_of_takeWords hw
    obtain ⟨hds, rfl⟩ := eq_of_takeBytes hd
    have hcw : cmdWord op (fieldA cw) (fieldB cw) = cw := cmdWord_fields (ofCode_eq_some.1 hop).symm
    split at h
    · next hm =>
      split at h
      · next ho =>
        cases h
        exact ⟨op, fieldA cw, fieldB cw, ws, d, by rw [request_append, hcw], ⟨hws, hds⟩, matches_iff.1 (hcw.symm ▸ hm), ho⟩
      · cases h
    · cases h

end Decoding

end Sys2Proof
end

section
/-! PROOFS. The encoder against the decoder (R100 to R109): every encoding is a legal request (`encode_requests`) and every legal
request an encoding (`Requests.encodes`), with the round trips, the illegal requests and the table of operations. -/

namespace Sys2Proof

open Machine Laws

/-! ### The operations with an operand word to check or to unpack (R102, R104) -/

section Operands

variable {a : Byte} {b : Half} {w w1 w2 w3 w4 w5 w6 w7 : Word} {d : List Byte}

theorem operands_lsFilter :
    operands .lsFilter a b [w1, w2, w3, w4] d =
      (operand16 w2).bind fun addrHi => (operand16 w4).map fun maskHi => .lsFilter (packAddr addrHi w1) (packAddr maskHi w3) := by
  unfold operands
  dsimp only
  cases operand16 w2 <;> cases operand16 w4 <;> rfl

theorem operands_lsConnreq :
    operands .lsConnreq a b [w1, w2, w3, w4, w5, w6, w7] d =
      some (.lsConnreq a w1 (w2.setWidth 24) (w2.extractLsb' 24 8) (loHalf w3) (hiHalf w3) w4 (packAddr (loHalf w6) w5)
        (w7 ++ hiHalf w6 : BitVec (32 + 16))) := rfl

theorem operands_lsUpdate : operands .lsUpdate a b [w] d = some (.lsUpdate a b (hiHalf w) (loHalf w)) := rfl

end Operands

/-! ### An instruction's operands and its encoding -/

/-- The field `B` of a request with data says how many data bytes follow (R101). -/
theorem lengthField_toNat {d : List Byte} (h : d.length < 65536) : (lengthField d).toNat = d.length := by
  rw [lengthField, BitVec.toNat_ofNat, Nat.mod_eq_of_lt h]

theorem lengthField_of_length {d : List Byte} {b : Half} (h : d.length = b.toNat) : lengthField d = b := by
  rw [lengthField, h, BitVec.ofNat_toNat, BitVec.setWidth_eq]

/-- The encoding of a well-formed instruction is a legal request for it. The cases are grouped by format. -/
theorem encode_requests {i : Instr} (hi : i.Wf) :
    ∃ op a b ws d, encode i = request op a b ws d ∧ Requests i op a b ws d := by
  have hlen : i.data.length = (lengthField i.data).toNat := (lengthField_toNat hi).symm
  cases i with
  | cmAdv | pbAcq | pbAbort | pbPoll | pbStat | acClear | acSee | prStop | tick | prReseed | prGet | prSetaa | prGetaa | prGetcv
  | lsStop | lsEvent | lsCancel | rtTake =>
    exact ⟨_, _, _, _, _, rfl, ⟨rfl, rfl⟩, ⟨fun _ => rfl, fun _ => rfl, nofun⟩, rfl⟩
  | cmI2f | whStep | pbRssi | pbCommit | pbRead | pbRel | acGet | prStart | prPkt | prSetcv | prSetto | lsFollow =>
    exact ⟨_, _, _, _, _, rfl, ⟨rfl, rfl⟩, ⟨nofun, fun _ => rfl, nofun⟩, rfl⟩
  | cmF2i => exact ⟨_, _, _, _, _, rfl, ⟨rfl, rfl⟩, ⟨fun _ => rfl, nofun, nofun⟩, rfl⟩
  | whLoad => exact ⟨_, _, _, _, _, rfl, ⟨rfl, rfl⟩, ⟨nofun, nofun, nofun⟩, rfl⟩
  | cmHop idx inc =>
    obtain ⟨hlow, hinc⟩ := (eq_setWidth_iff (v := 16) (by decide)).1 (Eq.refl (inc.setWidth 16))
    exact ⟨_, _, _, _, _, rfl, ⟨rfl, rfl⟩, ⟨nofun, nofun, fun _ => Nat.le_of_lt_succ hlow⟩,
      congrArg (fun x => some (Instr.cmHop idx x)) hinc⟩
  | whXors | whRefl | pbWrite => exact ⟨_, _, _, _, _, rfl, ⟨rfl, hlen⟩, ⟨fun _ => rfl, nofun, nofun⟩, rfl⟩
  | acScan => exact ⟨_, _, _, _, _, rfl, ⟨rfl, hlen⟩, ⟨nofun, nofun, nofun⟩, rfl⟩
  | whXor =>
    exact ⟨_, _, _, _, _, rfl, ⟨rfl, hlen⟩, ⟨nofun, nofun, nofun⟩, congrArg (Option.map _) (operand16_setWidth _)⟩
  | crcFwd | crcFwdt | crcRev | crcChk =>
    exact ⟨_, _, _, _, _, rfl, ⟨rfl, hlen⟩, ⟨fun _ => rfl, nofun, nofun⟩, congrArg (Option.map _) (operand24_setWidth _)⟩
  | crcRev24 =>
    exact ⟨_, _, _, _, _, rfl, ⟨rfl, rfl⟩, ⟨fun _ => rfl, fun _ => rfl, nofun⟩, congrArg (Option.map _) (operand24_setWidth _)⟩
  | lsFilter =>
    exact ⟨_, _, _, _, _, rfl, ⟨rfl, rfl⟩, ⟨fun _ => rfl, fun _ => rfl, nofun⟩, by simp [operands_lsFilter]⟩
  | lsConnreq hopinc aa crc winSize winOffset interval ts init adv =>
    have hcrc : (winSize ++ crc : BitVec (8 + 24)).setWidth 24 = crc := BitVec.setWidth_append_eq_right
    have hwin : (winSize ++ crc : BitVec (8 + 24)).extractLsb' 24 8 = winSize := BitVec.extractLsb'_append_eq_left
    have hadv : (adv.extractLsb' 16 32 ++ adv.extractLsb' 0 16 : BitVec (32 + 16)) = adv := join_split (m := 32) (n := 16) adv
    refine ⟨_, _, _, _, _, rfl, ⟨rfl, rfl⟩, ⟨nofun, fun _ => rfl, nofun⟩, ?_⟩
    simp only [operands_lsConnreq, hcrc, hwin, hadv, loHalf_packHalves, hiHalf_packHalves, packAddr_split]
  | lsUpdate => exact ⟨_, _, _, _, _, rfl, ⟨rfl, rfl⟩, ⟨nofun, nofun, nofun⟩, by simp [operands_lsUpdate]⟩

/-- A legal request is the encoding of its instruction, which is well formed. -/
theorem Requests.encodes {i : Instr} {op : Op} {a : Byte} {b : Half} {ws : List Word} {d : List Byte}
    (h : Requests i op a b ws d) : i.Wf ∧ encode i = request op a b ws d := by
  obtain ⟨hfr, ⟨ha, hu, hl⟩, ho⟩ := h
  have ⟨hw, hd⟩ := hfr
  have hwf {n : Nat} (hn : n = b.toNat) : n < 65536 := hn ▸ b.isLt
  cases op with
  | cmAdv | pbAcq | pbAbort | pbPoll | pbStat | acClear | prStop | prReseed | prGet | prGetaa | prGetcv | lsStop | lsEvent
  | lsCancel | rtTake =>
    obtain rfl := ha rfl
    obtain rfl := hu rfl
    obtain ⟨rfl, rfl⟩ := hfr.bare rfl rfl
    cases ho
    exact ⟨by decide, rfl⟩
  | cmI2f | whStep | pbRssi | pbRead | pbRel | acGet | prStart | prPkt | prSetcv | lsFollow =>
    obtain rfl := hu rfl
    obtain ⟨rfl, rfl⟩ := hfr.bare rfl rfl
    cases ho
    exact ⟨Nat.zero_lt_succ _, rfl⟩
  | cmF2i =>
    obtain rfl := ha rfl
    obtain ⟨rfl, rfl⟩ := hfr.bare rfl rfl
    cases ho
    exact ⟨Nat.zero_lt_succ _, rfl⟩
  | whLoad =>
    obtain ⟨rfl, rfl⟩ := hfr.bare rfl rfl
    cases ho
    exact ⟨Nat.zero_lt_succ _, rfl⟩
  | cmHop =>
    obtain ⟨rfl, rfl⟩ := hfr.bare rfl rfl
    cases ho
    have hb : b = (b.setWidth 8).setWidth 16 := (eq_setWidth_iff (by decide)).2 ⟨Nat.lt_succ_of_le (hl rfl), rfl⟩
    exact ⟨Nat.zero_lt_succ _, congrArg (request .cmHop a · [] []) hb.symm⟩
  | whXors | whRefl | pbWrite =>
    obtain rfl := ha rfl
    obtain rfl := List.length_eq_zero_iff.1 hw
    obtain rfl := lengthField_of_length hd
    cases ho
    exact ⟨hwf hd, rfl⟩
  | acScan =>
    obtain rfl := List.length_eq_zero_iff.1 hw
    obtain rfl := lengthField_of_length hd
    cases ho
    exact ⟨hwf hd, rfl⟩
  | acSee | tick | prSetaa =>
    obtain rfl := ha rfl
    obtain rfl := hu rfl
    obtain ⟨w, rfl⟩ := List.length_eq_one_iff.1 hw
    obtain rfl := List.length_eq_zero_iff.1 hd
    cases ho
    exact ⟨Nat.zero_lt_succ _, rfl⟩
  | prSetto =>
    obtain rfl := hu rfl
    obtain ⟨w, rfl⟩ := List.length_eq_one_iff.1 hw
    obtain rfl := List.length_eq_zero_iff.1 hd
    cases ho
    exact ⟨Nat.zero_lt_succ _, rfl⟩
  | pbCommit =>
    obtain rfl := hu rfl
    obtain ⟨w1, w2, rfl⟩ := List.length_eq_two.1 hw
    obtain rfl := List.length_eq_zero_iff.1 hd
    cases ho
    exact ⟨Nat.zero_lt_succ _, rfl⟩
  | whXor =>
    obtain ⟨w, rfl⟩ := List.length_eq_one_iff.1 hw
    obtain rfl := lengthField_of_length hd
    obtain ⟨v, hv, rfl⟩ := Option.map_eq_some_iff.1 ho
    obtain rfl := operand16_eq_some.1 hv
    exact ⟨hwf hd, rfl⟩
  | crcFwd | crcFwdt | crcRev | crcChk =>
    obtain rfl := ha rfl
    obtain ⟨w, rfl⟩ := List.length_eq_one_iff.1 hw
    obtain rfl := lengthField_of_length hd
    obtain ⟨v, hv, rfl⟩ := Option.map_eq_some_iff.1 ho
    obtain rfl := operand24_eq_some.1 hv
    exact ⟨hwf hd, rfl⟩
  | crcRev24 =>
    obtain rfl := ha rfl
    obtain rfl := hu rfl
    obtain ⟨w, rfl⟩ := List.length_eq_one_iff.1 hw
    obtain rfl := List.length_eq_zero_iff.1 hd
    obtain ⟨v, hv, rfl⟩ := Option.map_eq_some_iff.1 ho
    obtain rfl := operand24_eq_some.1 hv
    exact ⟨Nat.zero_lt_succ _, rfl⟩
  | lsFilter =>
    obtain rfl := ha rfl
    obtain rfl := hu rfl
    obtain rfl := List.length_eq_zero_iff.1 hd
    match ws, hw, ho with
    | [w1, w2, w3, w4], _, ho =>
      rw [operands_lsFilter, Option.bind_eq_some_iff] at ho
      obtain ⟨addrHi, h2, ho⟩ := ho
      obtain ⟨maskHi, h4, rfl⟩ := Option.map_eq_some_iff.1 ho
      obtain rfl := operand16_eq_some.1 h2
      obtain rfl := operand16_eq_some.1 h4
      exact ⟨Nat.zero_lt_succ _, by simp [encode]⟩
  | lsConnreq =>
    obtain rfl := hu rfl
    obtain rfl := List.length_eq_zero_iff.1 hd
    match ws, hw, ho with
    | [w1, w2, w3, w4, w5, w6, w7], _, ho =>
      cases ho
      refine ⟨Nat.zero_lt_succ _, ?_⟩
      have hw2 : (w2.extractLsb' 24 8 ++ w2.setWidth 24 : BitVec (8 + 24)) = w2 := by
        rw [BitVec.setWidth_eq_extractLsb' (by decide)]
        exact join_split (m := 8) (n := 24) w2
      have hhi : (w7 ++ hiHalf w6 : BitVec (32 + 16)).extractLsb' 16 32 = w7 := BitVec.extractLsb'_append_eq_left
      have hlo : (w7 ++ hiHalf w6 : BitVec (32 + 16)).extractLsb' 0 16 = hiHalf w6 := BitVec.extractLsb'_append_eq_right
      rw [encode, hw2, hhi, hlo, packHalves_halves, packAddr_hi, packAddr_lo, packHalves_halves]
  | lsUpdate =>
    obtain ⟨w, rfl⟩ := List.length_eq_one_iff.1 hw
    obtain rfl := List.length_eq_zero_iff.1 hd
    cases ho
    exact ⟨Nat.zero_lt_succ _, by rw [encode, packHalves_halves]⟩

/-! ### The round trips -/

/-- Settles O1: an encoding is a legal request (`encode_requests`), which the decoder reads back. -/
theorem decodeInvertsEncode : Obligations.DecodeInvertsEncode := by
  intro i rest hi
  obtain ⟨op, a, b, ws, d, he, hr⟩ := encode_requests hi
  rw [he]
  exact hr.decode_eq

/-- Settles O2: what the decoder reads is a legal request, and a legal request is an encoding (`Requests.encodes`). -/
theorem decodeOnlyEncodings : Obligations.DecodeOnlyEncodings := by
  intro st i rest h
  obtain ⟨op, a, b, ws, d, rfl, hr⟩ := requests_of_decode h
  obtain ⟨hwf, he⟩ := hr.encodes
  exact ⟨hwf, by rw [he]⟩

/-! ### Illegal requests (R108) -/

theorem operands_broken {op : Op} {a : Byte} {b : Half} {ws : List Word} {d : List Byte}
    (hw : ws.length = op.format.words) (h : OperandWordBroken op ws) : operands op a b ws d = none := by
  obtain ⟨hop, hlt⟩ | ⟨rfl, hlt⟩ | ⟨rfl, hlt⟩ := h
  · cases op with
    | crcFwd | crcFwdt | crcRev | crcRev24 | crcChk =>
      obtain ⟨w, rfl⟩ := List.length_eq_one_iff.1 hw
      exact congrArg (Option.map _) (operand24_eq_none hlt)
    | _ => exact absurd hop (by decide)
  · obtain ⟨w, rfl⟩ := List.length_eq_one_iff.1 hw
    exact congrArg (Option.map _) (operand16_eq_none hlt)
  · match ws, hw, hlt with
    | [w1, w2, w3, w4], _, .inl h2 => rw [operands_lsFilter, operand16_eq_none (w := w2) h2, Option.bind_none]
    | [w1, w2, w3, w4], _, .inr h4 =>
      rw [operands_lsFilter, operand16_eq_none (w := w4) h4]
      cases operand16 w2 <;> rfl

theorem step_illegal {s t : State} {g : Agent} {why : Illegal} {rest : List Beat} (h : s.grant = some (g, t))
    (hd : decode (t.port g).reqs = .illegal why rest) :
    step s = .next ((t.serving g rest).answer (errorResponse .illegal)) := by
  simp [step, fetch, h, hd, raise]

/-- Settles O5: the decoder turns away an unlisted `OP` (`decode_unknown`) and a framed request with an unused field or an operand
word that does not fit (`decode_illegal`), and the step answers what it turns away. -/
theorem illegalRequestsAnswered : Obligations.IllegalRequestsAnswered := by
  refine ⟨fun s t g cw rest hg hreqs hc => ?_, fun s t g op cw ws d rest hg hreqs hop hw hd hbad => ?_,
    fun c => (unlistedCode_iff_ofCode c).trans ofCode_eq_none⟩
  · exact step_illegal hg (hreqs ▸ decode_unknown ((unlistedCode_iff_ofCode _).1 hc))
  · have framed : Framed op (fieldB cw) ws d := ⟨hw, hd⟩
    have misfit : ¬FieldsFit op.format (fieldA cw) (fieldB cw) ∨ operands op (fieldA cw) (fieldB cw) ws d = none :=
      hbad.imp (fun hu hfit => fieldsFit_iff.1 hfit hu) (operands_broken hw)
    obtain ⟨why, hwhy⟩ := decode_illegal (rest := rest) framed misfit
    rw [request_append, cmdWord_fields hop, ← hreqs] at hwhy
    exact step_illegal hg hwhy

/-! ### The table of operations (R104, R105) -/

/-- Settles O3: the law of each row. -/
theorem encodingsMatchTheTable : Obligations.EncodingsMatchTheTable
  | .cmI2f .. => EncodingMatchesRow.cmI2f ..
  | .cmF2i .. => EncodingMatchesRow.cmF2i ..
  | .cmAdv => EncodingMatchesRow.cmAdv
  | .cmHop .. => EncodingMatchesRow.cmHop ..
  | .whLoad .. => EncodingMatchesRow.whLoad ..
  | .whStep .. => EncodingMatchesRow.whStep ..
  | .whXor .. => EncodingMatchesRow.whXor ..
  | .whXors .. => EncodingMatchesRow.whXors ..
  | .whRefl .. => EncodingMatchesRow.whRefl ..
  | .crcFwd .. => EncodingMatchesRow.crcFwd ..
  | .crcFwdt .. => EncodingMatchesRow.crcFwdt ..
  | .crcRev .. => EncodingMatchesRow.crcRev ..
  | .crcRev24 .. => EncodingMatchesRow.crcRev24 ..
  | .crcChk .. => EncodingMatchesRow.crcChk ..
  | .pbAcq => EncodingMatchesRow.pbAcq
  | .pbWrite .. => EncodingMatchesRow.pbWrite ..
  | .pbRssi .. => EncodingMatchesRow.pbRssi ..
  | .pbCommit .. => EncodingMatchesRow.pbCommit ..
  | .pbAbort => EncodingMatchesRow.pbAbort
  | .pbPoll => EncodingMatchesRow.pbPoll
  | .pbRead .. => EncodingMatchesRow.pbRead ..
  | .pbRel .. => EncodingMatchesRow.pbRel ..
  | .pbStat => EncodingMatchesRow.pbStat
  | .acClear => EncodingMatchesRow.acClear
  | .acSee .. => EncodingMatchesRow.acSee ..
  | .acScan .. => EncodingMatchesRow.acScan ..
  | .acGet .. => EncodingMatchesRow.acGet ..
  | .prStart .. => EncodingMatchesRow.prStart ..
  | .prStop => EncodingMatchesRow.prStop
  | .prPkt .. => EncodingMatchesRow.prPkt ..
  | .tick .. => EncodingMatchesRow.tick ..
  | .prReseed => EncodingMatchesRow.prReseed
  | .prGet => EncodingMatchesRow.prGet
  | .prSetaa .. => EncodingMatchesRow.prSetaa ..
  | .prGetaa => EncodingMatchesRow.prGetaa
  | .prSetcv .. => EncodingMatchesRow.prSetcv ..
  | .prGetcv => EncodingMatchesRow.prGetcv
  | .prSetto .. => EncodingMatchesRow.prSetto ..
  | .lsFollow .. => EncodingMatchesRow.lsFollow ..
  | .lsStop => EncodingMatchesRow.lsStop
  | .lsFilter .. => EncodingMatchesRow.lsFilter ..
  | .lsConnreq .. => EncodingMatchesRow.lsConnreq ..
  | .lsUpdate .. => EncodingMatchesRow.lsUpdate ..
  | .lsEvent => EncodingMatchesRow.lsEvent
  | .lsCancel => EncodingMatchesRow.lsCancel
  | .rtTake => EncodingMatchesRow.rtTake

/-- Settles O4: the decoder run on each request. -/
theorem sampleRequestsDecode : Obligations.SampleRequestsDecode := by
  refine ⟨rfl, rfl, rfl, rfl, rfl, rfl, rfl, rfl, rfl, rfl, rfl⟩

end Sys2Proof
end

section
/-! PROOFS. Behind the rights check an operation checks the domains of its operands before anything else (R107, R302):
`exec_rangeIff`. -/

namespace Sys2Proof.Machine

/-- The lists of R321 and the table of rights say the same. -/
theorem permitted_iff (g : Agent) (op : Op) : Permitted g op ↔ (rights op).allows g = true := by
  cases g <;> cases op <;> decide

/-- The body of an operation ends in an answer other than `RANGE`. -/
def PassesRange (k : Result) : Prop := ∃ (u : State) (r : Response), k = .next (u.answer r) ∧ r.status ≠ .range

theorem PassesRange.raise {s : State} {st : Status} (h : st ≠ .range) : PassesRange (raise s st) := ⟨s, _, rfl, h⟩

theorem PassesRange.reply {s : State} {r : Response} (h : r.status = .ok) : PassesRange (reply s r) :=
  ⟨s, r, rfl, by rw [h]; decide⟩

theorem PassesRange.ite {c : Prop} {_ : Decidable c} {k l : Result} (hk : PassesRange k) (hl : PassesRange l) :
    PassesRange (if c then k else l) := by
  split
  · exact hk
  · exact hl

/-- The body of an operation raises `RANGE`, in the state it found, when `P`, an operand out of its domain, and only then (R107,
R302). -/
def RangeIff (P : Prop) (s : State) (k : Result) : Prop := (P → k = raise s .range) ∧ (¬P → PassesRange k)

section Checks

variable {P c : Prop} {s : State} {k : Result}

theorem RangeIff.raised (hP : P) : RangeIff P s (Machine.raise s .range) := ⟨fun _ => rfl, absurd hP⟩

theorem RangeIff.passed (hP : ¬P) (hk : PassesRange k) : RangeIff P s k := ⟨fun h => absurd h hP, fun _ => hk⟩

theorem RangeIff.check {_ : Decidable c} (h : c ↔ P) (hk : PassesRange k) :
    RangeIff P s (if c then Machine.raise s .range else k) := by
  split
  · next hc => exact .raised (h.1 hc)
  · next hc => exact .passed (mt h.2 hc) hk

theorem badChan_or_tooLong {ch : Byte} {d : List Byte} :
    (badChan ch || tooLong d) = true ↔ 39 < ch.toNat ∨ 263 < d.length := by
  rw [Bool.or_eq_true, badChan_true, tooLong_true]

theorem freqChan_none {f : Nat} : freqChan f = none ↔ f < 2402 ∨ 2480 < f ∨ f % 2 = 1 := by
  unfold freqChan
  split_ifs <;> simp <;> omega

theorem setTimeout_none {which : Nat} {ticks : Word} : s.setTimeout which ticks = none ↔ 2 < which := by
  match which with
  | 0 | 1 | 2 => simp [State.setTimeout]
  | n + 3 => simp [State.setTimeout]

end Checks

/-- Behind the rights check every operation checks its operands' domains before anything else. -/
theorem exec_rangeIff (i : Instr) (s : State) : ∃ k, exec i s = served (opOf i) s k ∧ RangeIff (outOfDomain i) s k := by
  cases i with
  | cmAdv | crcRev24 | pbStat | acClear | prGet | prGetcv | lsFilter => exact ⟨_, rfl, .passed nofun (.reply rfl)⟩
  | prGetaa | lsCancel => exact ⟨_, rfl, .passed nofun (.ite (.reply rfl) (.reply rfl))⟩
  | prStop | prReseed | prSetaa | lsStop | lsUpdate | rtTake =>
    exact ⟨_, rfl, .passed nofun (.ite (.reply rfl) (.raise nofun))⟩
  | acSee | lsEvent => exact ⟨_, rfl, .passed nofun (.ite (.ite (.reply rfl) (.reply rfl)) (.raise nofun))⟩
  | pbRssi | pbAbort | pbPoll =>
    refine ⟨_, rfl, .passed nofun ?_⟩
    split
    · exact .raise nofun
    · exact .reply rfl
  | pbAcq =>
    refine ⟨_, rfl, .passed nofun ?_⟩
    split
    · exact .raise nofun
    · split
      · exact .raise nofun
      · exact .reply rfl
  | tick =>
    refine ⟨_, rfl, .passed nofun (.ite (.reply rfl) ?_)⟩
    split
    · exact .reply rfl
    · exact .reply rfl
  | cmI2f | whLoad => exact ⟨_, rfl, .check badChan_true (.reply rfl)⟩
  | prStart => exact ⟨_, rfl, .check badChan_true (.ite (.reply rfl) (.raise nofun))⟩
  | whRefl | crcFwd | crcFwdt | crcRev => exact ⟨_, rfl, .check tooLong_true (.reply rfl)⟩
  | whXors => exact ⟨_, rfl, .check tooLong_true (.ite (.raise nofun) (.reply rfl))⟩
  | whXor => exact ⟨_, rfl, .check badChan_or_tooLong (.reply rfl)⟩
  | acScan => exact ⟨_, rfl, .check badChan_or_tooLong (.ite (.reply rfl) (.raise nofun))⟩
  | crcChk =>
    exact ⟨_, rfl, .check (by rw [Bool.or_eq_true, decide_eq_true_eq, tooLong_true]; rfl) (.reply rfl)⟩
  | whStep => exact ⟨_, rfl, .check Iff.rfl (.ite (.raise nofun) (.reply rfl))⟩
  | prSetcv => exact ⟨_, rfl, .check Iff.rfl (.reply rfl)⟩
  | lsFollow => exact ⟨_, rfl, .check Iff.rfl (.ite (.reply rfl) (.raise nofun))⟩
  | lsConnreq => exact ⟨_, rfl, .check Iff.rfl (.ite (.raise nofun) (.ite (.reply rfl) (.reply rfl)))⟩
  | cmHop idx inc =>
    refine ⟨_, rfl, ?_⟩
    split
    · next hidx => exact .raised (.inl hidx)
    · next hidx => exact .check ⟨.inr, (·.resolve_left hidx)⟩ (.reply rfl)
  | pbWrite data =>
    refine ⟨_, rfl, .check tooLong_true ?_⟩
    split
    · exact .raise nofun
    · exact .ite (.raise nofun) (.ite (.raise nofun) (.reply rfl))
  | pbCommit =>
    refine ⟨_, rfl, .check badChan_true ?_⟩
    split
    · exact .raise nofun
    · exact .ite (.reply rfl) (.raise nofun)
  | cmF2i =>
    refine ⟨_, rfl, ?_⟩
    split
    · next hk => exact .raised (freqChan_none.1 hk)
    · next hk => exact .passed (fun h => nomatch hk.symm.trans (freqChan_none.2 h)) (.reply rfl)
  | pbRead | pbRel | prPkt =>
    refine ⟨_, rfl, ?_⟩
    split
    · next hb => exact .raised (bufIndex_none.1 hb)
    · next hb =>
      refine .passed (fun h => nomatch hb.symm.trans (bufIndex_none.2 h)) ?_
      split
      · exact .reply rfl
      · exact .raise nofun
  | acGet =>
    refine ⟨_, rfl, ?_⟩
    split
    · next hj => exact .raised (slotIndex_none.1 hj)
    · next hj => exact .passed (fun h => nomatch hj.symm.trans (slotIndex_none.2 h)) (.ite (.reply rfl) (.reply rfl))
  | prSetto =>
    refine ⟨_, rfl, ?_⟩
    split
    · next ht => exact .raised (setTimeout_none.1 ht)
    · next ht => exact .passed (fun h => nomatch ht.symm.trans (setTimeout_none.2 h)) (.reply rfl)

/-- Settles O18: a permitted operation's rights check passes, and its body raises `RANGE` first or not at all (`exec_rangeIff`). -/
theorem rangeExactlyOutOfDomain : Obligations.RangeExactlyOutOfDomain := by
  intro i s hperm
  obtain ⟨k, hk, hout, hin⟩ := exec_rangeIff i s
  rw [served_of_allowed ((permitted_iff _ _).1 hperm)] at hk
  refine ⟨fun h => hk.trans (hout h), fun h => ?_⟩
  obtain ⟨u, r, hu, hr⟩ := hin h
  have hagent : (u.answer r).agent = s.agent := by
    obtain ⟨v, r', hv, hvr⟩ := exec_answeredOnce (hk.trans hu)
    rw [hvr]
    exact congrArg Boundary.agent hv
  refine ⟨u.answer r, r, hk.trans hu, ?_, hr⟩
  rw [State.lastOn, ← hagent, State.answer_agent, State.answer_port_issuer, List.getLast?_concat]

end Sys2Proof.Machine
end

section
/-! PROOFS. The increment a probe pair gives (R248 to R250): the arithmetic modulo 37 of the recovery, and what the
first packet of a pair leaves for the second (`Measuring`). -/

namespace Sys2Proof.Machine

/-! ### The arithmetic of the recovery -/

/-- A time within half an interval of `h` intervals rounds to `h` of them (R13, R248). -/
theorem rdiv_of_near {e n h : Nat} (hlow : h * n ≤ e + n / 2) (hhigh : e + n / 2 < (h + 1) * n) : rdiv e n = h := by
  have hn : n ≠ 0 := by
    rintro rfl
    simp at hhigh
  rw [rdiv, if_neg hn]
  exact Nat.div_eq_of_lt_le hlow hhigh

section Recovery

variable {a b h inc : Nat}

/-- Distinct channels are not a whole number of rounds apart. -/
theorem hops_mod_ne_zero (hab : a ≠ b) (ha : a ≤ 36) (hhop : (a + h * inc) % 37 = b) : h % 37 ≠ 0 := by
  intro h0
  have hround : h * inc % 37 = 0 := by rw [Nat.mul_mod, h0, Nat.zero_mul]
  omega

/-- The distance of the channels, divided by the hops taken, is the increment (R249). -/
theorem inverse_mul_distance {inv d : Nat} (hhop : (a + h * inc) % 37 = b) (hinv : h % 37 * inv % 37 = 1)
    (hd : (d : Int) = ((b : Int) - a) % 37) (hinc : inc ≤ 36) : inv * d % 37 = inc := by
  have hdist : d ≡ h * inc [MOD 37] := by
    unfold Nat.ModEq
    omega
  have hunit : h * inv ≡ 1 [MOD 37] := by
    unfold Nat.ModEq
    rw [← Nat.mod_mul_mod, hinv]
  have hmul : inv * d ≡ inc [MOD 37] := calc
    inv * d ≡ inv * (h * inc) [MOD 37] := hdist.mul_left inv
    _ = h * inv * inc := by ring
    _ ≡ 1 * inc [MOD 37] := hunit.mul_right inc
    _ = inc := Nat.one_mul inc
  exact Eq.trans hmul (Nat.mod_eq_of_lt (by omega))

end Recovery

/-! ### The two packets of a pair -/

/-- A packet on `PROBE_A` starts the measurement and the block moves to `PROBE_B` (R248). -/
theorem stageIncrement_first {s : State} {p : PacketView} (hA : p.chan = s.params.probeA) :
    stageIncrement s p =
      { state := { s.tune s.params.probeB with hpFirstTs := p.ts, hpFirstValid := true }
        disposition := .accepted, events := [] } := by
  unfold stageIncrement
  rw [if_pos hA]

theorem arrivals_pair {s t u : State} {p q : Buffer} (hp : arrive s p = .next t) (hq : arrive t q = .next u) :
    arrivals s [p, q] = .next u := by
  rw [arrivals, hp, andThen, arrivals, hq, andThen, arrivals]

/-- What `arrive` presents to the stage machine: the packet in buffer 0, and `PROC` served. -/
def State.presenting (s : State) (p : Buffer) : State := (s.setBuf 0 p).as .proc

theorem State.presenting_buf (s : State) (p : Buffer) : (s.presenting p).pb[(0 : Fin 4)] = p := by
  simp [State.presenting]

/-- The state between the packets of a pair: the measurement is started, the block listens on `PROBE_B`, and the gates, the interval
and the parameters are as they were (R248). -/
structure Measuring (s : State) (first : Buffer) (t : State) : Prop where
  stage : t.stage = .hopIncrementRecovery
  aaValid : t.aaValid = true
  aa : t.aa = s.aa
  crcVerify : t.crcVerify = s.crcVerify
  crcLfsr : t.crcLfsr = s.crcLfsr
  interval : t.interval = s.interval
  params : t.params = s.params
  firstTs : t.hpFirstTs = first.ts
  firstValid : t.hpFirstValid = true
  chan : t.chan = s.params.probeB

theorem Measuring.passesGates {s t : State} {first p : Buffer} (h : Measuring s first t) (hg : p.passesGates s) :
    p.passesGates t := by
  rwa [Buffer.passesGates, h.aa, h.crcVerify, h.crcLfsr]

section Pair

variable {s : State} {p : Buffer}

/-- A packet past both gates in `HopIncrementRecovery` leaves what the stage's handler leaves (R237, R248). -/
theorem arrive_increment {h : Handled} (hst : s.stage = .hopIncrementRecovery) (ha : s.aaValid = true)
    (hg : p.passesGates s) (hh : stageIncrement (s.presenting p) p.view = h) :
    ∃ r, arrive s p = .next (h.state.answer r) := by
  have hbuf := s.presenting_buf p
  have hgate : (s.presenting p).pb[(0 : Fin 4)].passesGates (s.presenting p) := by rwa [hbuf]
  have hstage : stageIncrement (s.presenting p) (s.presenting p).pb[(0 : Fin 4)].view = h := by rwa [hbuf]
  exact ⟨_, exec_prPkt_increment (s := s.presenting p) (buf := 0) (b := 0) rfl rfl hst ha hgate hstage⟩

theorem arrive_probeA (hst : s.stage = .hopIncrementRecovery) (ha : s.aaValid = true) (hg : p.passesGates s)
    (hA : p.chan = s.params.probeA) :
    ∃ t, arrive s p = .next t ∧ Measuring s p t := by
  obtain ⟨r, hr⟩ := arrive_increment hst ha hg (stageIncrement_first (s := s.presenting p) (p := p.view) hA)
  refine ⟨_, hr, ?_⟩
  constructor
  all_goals simp [State.presenting, Buffer.view, hst, ha]

/-- The second packet of a pair, a number of hops not divisible by 37 after the first, gives the increment (R248 to R250). -/
theorem arrive_probeB {first : Buffer} {t : State} {inv : Nat} (ht : Measuring s first t) (hg : p.passesGates s)
    (hA : p.chan ≠ s.params.probeA) (hB : p.chan = s.params.probeB)
    (hinv : hopInv (hopsMod s.params s.interval (p.ts - first.ts)) = some inv) :
    ∃ r, arrive t p = .next (((t.presenting p).succeed p.view (increment s.params inv)).answer r) := by
  rw [← ht.params] at hA hB hinv ⊢
  rw [← ht.interval, ← ht.firstTs] at hinv
  exact arrive_increment ht.stage ht.aaValid (ht.passesGates hg) (stageIncrement_conclusive hA hB ht.firstValid hinv)

end Pair

/-- The increment that the inverse of the hops taken gives is the one they were taken by (R249). -/
theorem increment_of_hops {ps : Params} {h inc inv : Nat} (hhop : (ps.probeA.toNat + h * inc) % 37 = ps.probeB.toNat)
    (hinv : h % 37 * inv % 37 = 1) (hle : inc ≤ 36) : (increment ps inv).toNat = inc := by
  have hdist : (probeDistance ps : Int) = ((ps.probeB.toNat : Int) - ps.probeA.toNat) % 37 :=
    Int.toNat_of_nonneg (Int.emod_nonneg _ (by decide))
  rw [increment, dataChan_toNat]
  exact inverse_mul_distance hhop hinv hdist hle

/-- Settles O48: the first packet starts the measurement, the hops it ends with have an inverse, and that gives `inc` back. -/
theorem incrementRecovered : Obligations.IncrementRecovered := by
  intro s pA pB h inc N hwf hst ha hgA hgB hA hB _ hN hlow hhigh _ hle hhop
  obtain ⟨-, -, hne, hA36, -⟩ := hwf
  have hhops : hopsMod s.params s.interval (pB.ts - pA.ts) = h % 37 := by
    rw [hopsMod, ← hN, rdiv_of_near hlow hhigh]
  have hnz : h % 37 ≠ 0 := hops_mod_ne_zero (mt BitVec.eq_of_toNat_eq hne) hA36 hhop
  obtain ⟨inv, hinv, -, -, hmul⟩ := hopInv_some (Nat.mod_lt h (by decide)) hnz
  obtain ⟨t, hfirst, ht⟩ := arrive_probeA hst ha hgA hA
  obtain ⟨r, hsecond⟩ := arrive_probeB ht hgB (fun heq => hne (heq.symm.trans hB)) hB (by rw [hhops, hinv])
  exact ⟨_, arrivals_pair hfirst hsecond, increment_of_hops hhop hmul hle, rfl, rfl, rfl, rfl, rfl, rfl, ht.chan⟩

end Sys2Proof.Machine
end

section
/-! PROOFS. The hop of a connection, `LS_EVENT` after `LS_EVENT` (R278, R283). -/

namespace Sys2Proof.Machine

/-- What `n` connection events leave of what the hop sequence is about: the channel, posted, and the counter (R278, R283). -/
structure AfterEvents (n : Nat) (s t : State) : Prop where
  chan : t.chan.toNat = (s.chan.toNat + n * s.hopinc.toNat) % 37
  lstate : t.lstate = .connected
  hopinc : t.hopinc = s.hopinc
  evcnt : t.evcnt = s.evcnt + BitVec.ofNat 16 n
  posted : n ≠ 0 → t.rtPending = true ∧ t.rtChan = t.chan

theorem toHalf_succ (v : Half) : toHalf (v.toNat + 1) = v + 1 := by
  apply BitVec.eq_of_toNat_eq
  simp [toHalf]

/-- One connection event, whether or not an update takes effect in it (R283). -/
theorem exec_lsEvent {s : State} (hag : s.agent = .cap) (hl : s.lstate = .connected) :
    ∃ t, exec .lsEvent s = .next t ∧ AfterEvents 1 s t := by
  have hallowed : (rights .lsEvent).allows s.agent = true := by rw [hag]; rfl
  have hrun : exec .lsEvent s = execLsEvent s := rfl
  have hchan : (dataChan (s.chan.toNat + s.hopinc.toNat)).toNat = (s.chan.toNat + 1 * s.hopinc.toNat) % 37 := by
    rw [dataChan_toNat, Nat.one_mul]
  have hcount := toHalf_succ s.evcnt
  rw [hrun, execLsEvent, served_of_allowed hallowed, if_pos hl]
  dsimp only
  split
  · exact ⟨_, rfl, hchan, hl, rfl, hcount, fun _ => ⟨rfl, rfl⟩⟩
  · exact ⟨_, rfl, hchan, hl, rfl, hcount, fun _ => ⟨rfl, rfl⟩⟩

theorem AfterEvents.succ {n : Nat} {s t u : State} (h : AfterEvents n s t) (h' : AfterEvents 1 t u) :
    AfterEvents (n + 1) s u where
  chan := by
    rw [h'.chan, h.chan, h.hopinc, Nat.mod_add_mod, Nat.add_assoc, ← Nat.add_mul]
  lstate := h'.lstate
  hopinc := h'.hopinc.trans h.hopinc
  evcnt := by rw [h'.evcnt, h.evcnt, BitVec.add_assoc, ← BitVec.ofNat_add]
  posted _ := h'.posted (by decide)

theorem repeated_lsEvent (n : Nat) {s : State} (hl : s.lstate = .connected) (hc : s.chan.toNat ≤ 36) :
    ∃ t, repeated .cap .lsEvent n s = .next t ∧ AfterEvents n s t := by
  induction n with
  | zero => exact ⟨s, rfl, by omega, hl, rfl, (BitVec.add_zero _).symm, absurd rfl⟩
  | succ n ih =>
    obtain ⟨t, ht, hafter⟩ := ih
    obtain ⟨u, hu, hone⟩ := exec_lsEvent (s := t.as .cap) rfl hafter.lstate
    refine ⟨u, ?_, hafter.succ ⟨hone.chan, hone.lstate, hone.hopinc, hone.evcnt, hone.posted⟩⟩
    rw [repeated, ht]
    exact hu

/-- Multiples of an increment repeat modulo 37 as their factors do: 37 is prime (R278). -/
theorem add_mul_mod_inj {c inc m n : Nat} (hpos : 1 ≤ inc) (hle : inc ≤ 36) :
    (c + m * inc) % 37 = (c + n * inc) % 37 ↔ m % 37 = n % 37 := by
  have hcoprime : Nat.gcd 37 inc = 1 := Nat.coprime_of_lt_prime (by omega) (by omega) (by norm_num)
  constructor
  · intro h
    exact Nat.ModEq.cancel_right_of_coprime hcoprime (Nat.ModEq.add_left_cancel' c h)
  · intro h
    exact Nat.ModEq.add_left c (Nat.ModEq.mul_right inc h)

/-- Settles O55, by induction on the number of events. -/
theorem hopSequence : Obligations.HopSequence := by
  constructor
  · intro n s hl hc
    obtain ⟨t, ht, hafter⟩ := repeated_lsEvent n hl hc
    exact ⟨t, ht, hafter.chan, hafter.lstate, hafter.hopinc, hafter.evcnt, hafter.posted⟩
  · intro m n s t u hl hc hpos hle ht hu
    obtain ⟨t', ht', hm⟩ := repeated_lsEvent m hl hc
    obtain ⟨u', hu', hn⟩ := repeated_lsEvent n hl hc
    obtain rfl : t = t' := by simpa [ht] using ht'
    obtain rfl : u = u' := by simpa [hu] using hu'
    rw [← BitVec.toNat_inj, hm.chan, hn.chan]
    exact add_mul_mod_inj hpos hle

end Sys2Proof.Machine
end

section
/-! PROOFS. The Channel Mapper (R130 to R133): the mapping and its inverse as one bijection (`freqChan_some`), and what each of its
four operations answers. -/

namespace Sys2Proof.Machine

/-! ### The mapping (R130, R131) -/

section Mapping

variable {i f : Nat}

theorem chanFreq_low (h : i < 11) : chanFreq i = 2404 + 2 * i := by
  unfold chanFreq
  split_ifs <;> omega

theorem chanFreq_high (h : 11 ≤ i) (h' : i ≤ 36) : chanFreq i = 2428 + 2 * (i - 11) := by
  unfold chanFreq
  split_ifs <;> omega

theorem chanFreq_le (h : i ≤ 39) : chanFreq i ≤ 2480 := by
  unfold chanFreq
  split_ifs <;> omega

/-- `freqChan` is the inverse of `chanFreq` on the 40 indices: the invariant of 40_channel_mapper.md. -/
theorem freqChan_some : freqChan f = some i ↔ i ≤ 39 ∧ chanFreq i = f := by
  unfold freqChan chanFreq
  split_ifs <;> simp <;> omega

theorem freqChan_low (h : 2402 < f) (h' : f < 2426) (heven : f % 2 = 0) : freqChan f = some ((f - 2404) / 2) :=
  freqChan_some.2 ⟨by omega, (chanFreq_low (by omega)).trans (by omega)⟩

theorem freqChan_high (h : 2426 < f) (h' : f < 2480) (heven : f % 2 = 0) : freqChan f = some (11 + (f - 2428) / 2) :=
  freqChan_some.2 ⟨by omega, (chanFreq_high (by omega) (by omega)).trans (by omega)⟩

end Mapping

/-! ### The four operations -/

section Answers

variable {s : State}

/-- Either agent may issue an operation whose row of R321 says so. -/
theorem served_both {op : Op} {k : Result} (h : rights op = .both) : served op s k = k :=
  served_of_allowed (by rw [h]; rfl)

/-- Out of its domain an operation that either agent may issue answers `RANGE` (R107, R302). -/
theorem exec_outOfDomain {i : Instr} (hboth : rights (opOf i) = .both) (hout : outOfDomain i) :
    exec i s = .next (s.answer (errorResponse .range)) :=
  (rangeExactlyOutOfDomain i s ((permitted_iff _ _).2 (by rw [hboth]; rfl))).1 hout

theorem exec_cmI2f {idx : Byte} {f : Nat} (h : idx.toNat ≤ 39) (hf : chanFreq idx.toNat = f) :
    exec (.cmI2f idx) s = .next (s.answer { rb := toHalf f }) := by
  have hrun : exec (.cmI2f idx) s = execCmI2f idx s := rfl
  rw [hrun, execCmI2f, served_both rfl, if_neg (by simpa [badChan_true] using h), hf]
  rfl

theorem exec_cmF2i {freq : Half} {i : Nat} (h : freqChan freq.toNat = some i) :
    exec (.cmF2i freq) s = .next (s.answer { ra := toByte i }) := by
  have hrun : exec (.cmF2i freq) s = execCmF2i freq s := rfl
  rw [hrun, execCmF2i, served_both rfl, h]
  rfl

theorem exec_cmAdv : exec .cmAdv s = .next (s.answer { words := [0x00272625#32] }) :=
  served_both (s := s) (op := .cmAdv) rfl

theorem exec_cmHop {idx inc : Byte} (hidx : idx.toNat ≤ 36) (hinc : inc.toNat ≤ 36) :
    exec (.cmHop idx inc) s = .next (s.answer { ra := dataChan (idx.toNat + inc.toNat) }) := by
  have hrun : exec (.cmHop idx inc) s = execCmHop idx inc s := rfl
  rw [hrun, execCmHop, served_both rfl, if_neg (Nat.not_lt.2 hidx), if_neg (Nat.not_lt.2 hinc)]
  rfl

end Answers

/-- Settles O20: the value of the mapping in each range of operands, behind the operation's domain check. -/
theorem channelMapperResults : Obligations.ChannelMapperResults := by
  refine ⟨fun idx s => ?_, fun freq s => ?_, fun _ => exec_cmAdv, fun idx inc s => ?_⟩
  · refine ⟨exec_outOfDomain (i := .cmI2f idx) rfl, fun h => ?_, fun h => ?_, fun h => ?_, fun h => ?_, fun h h' => ?_⟩
    · exact exec_cmI2f (by omega) (by rw [h]; rfl)
    · exact exec_cmI2f (by omega) (by rw [h]; rfl)
    · exact exec_cmI2f (by omega) (by rw [h]; rfl)
    · exact exec_cmI2f (by omega) (chanFreq_low h)
    · exact exec_cmI2f (by omega) (chanFreq_high h h')
  · refine ⟨exec_outOfDomain (i := .cmF2i freq) rfl, fun h => ?_, fun h => ?_, fun h => ?_, fun h h' heven => ?_,
      fun h h' heven => ?_⟩
    · exact exec_cmF2i (by rw [h]; rfl)
    · exact exec_cmF2i (by rw [h]; rfl)
    · exact exec_cmF2i (by rw [h]; rfl)
    · exact exec_cmF2i (freqChan_low h h' heven)
    · exact exec_cmF2i (freqChan_high h h' heven)
  · exact ⟨exec_outOfDomain (i := .cmHop idx inc) rfl, exec_cmHop⟩

/-- Settles O21: both directions are `freqChan_some`, with results that fit the 16 and 8 bits of `RB` and `RA`. -/
theorem channelMapperRoundTrip : Obligations.ChannelMapperRoundTrip := by
  constructor
  · intro idx s hidx
    have hfit : (toHalf (chanFreq idx.toNat)).toNat = chanFreq idx.toNat :=
      Nat.mod_eq_of_lt ((chanFreq_le hidx).trans_lt (by decide))
    have hback : toByte idx.toNat = idx := BitVec.ofNat_toNat 8 idx
    refine ⟨toHalf (chanFreq idx.toNat), exec_cmI2f hidx rfl, ?_⟩
    rw [exec_cmF2i (freqChan_some.2 ⟨hidx, hfit.symm⟩), hback]
  · intro freq s hlow hhigh heven
    obtain ⟨i, hi⟩ : ∃ i, freqChan freq.toNat = some i :=
      Option.ne_none_iff_exists'.1 (mt freqChan_none.1 (by omega))
    obtain ⟨hle, hfreq⟩ := freqChan_some.1 hi
    have hfit : (toByte i).toNat = i := Nat.mod_eq_of_lt (hle.trans_lt (by decide))
    have hback : toHalf freq.toNat = freq := BitVec.ofNat_toNat 16 freq
    refine ⟨toByte i, hfit.symm ▸ hle, exec_cmF2i hi, ?_⟩
    rw [exec_cmI2f (hfit.symm ▸ hle) (hfit.symm ▸ hfreq), hback]

end Sys2Proof.Machine
end

section
/-! PROOFS. The Whitening Engine (R140 to R148) and the bit reversal of the CRC Engine (R167). The table `W` is related to the shift
register of R141 by `tableReg`, the register read back from seven neighbouring table bits; the operations are related to the table by
the bits of `whiten` and `seqBits`. -/

namespace Sys2Proof.Machine

/-! ### Bit lists as words (R12) -/

theorem bitsVal_testBit (bs : List Bool) (k : Nat) : (bitsVal bs).testBit k = bs.getD k false := by
  induction bs generalizing k with
  | nil => simp [bitsVal]
  | cons b bs ih =>
    cases k with
    | zero => cases b <;> simp [bitsVal, Nat.testBit_zero, Nat.add_mul_mod_self_left]
    | succ k =>
      have htail : (b.toNat + 2 * bitsVal bs) / 2 = bitsVal bs := by have := b.toNat_le; omega
      rw [bitsVal, Nat.testBit_add_one, htail, ih, List.getD_cons_succ]

theorem getLsbD_ofNat_bitsVal (w : Nat) (bs : List Bool) (k : Nat) :
    (BitVec.ofNat w (bitsVal bs)).getLsbD k = (decide (k < w) && bs.getD k false) := by
  rw [BitVec.getLsbD_ofNat, bitsVal_testBit]

theorem getElem_ofNat_bitsVal {w k : Nat} (bs : List Bool) (hk : k < w) :
    (BitVec.ofNat w (bitsVal bs))[k] = bs.getD k false := by
  rw [← BitVec.getLsbD_eq_getElem, getLsbD_ofNat_bitsVal, decide_eq_true hk, Bool.true_and]

/-! ### Reversed bits (R13, R148) -/

theorem getLsbD_reverse_of_lt {w : Nat} (x : BitVec w) {i : Nat} (h : i < w) : x.reverse.getLsbD i = x.getLsbD (w - 1 - i) := by
  rw [BitVec.getLsbD_reverse, BitVec.getMsbD_eq_getLsbD, decide_eq_true h, Bool.true_and]

theorem rev8_comp_rev8 : rev8 ∘ rev8 = id := funext fun _ => BitVec.reverse_reverse_eq

/-! ### The whitening sequence (R60, R140) -/

section Sequence

variable {pos pos' : Nat}

/-- The sequence repeats every 127 bits (R140). -/
theorem whW_congr (h : pos ≡ pos' [MOD 127]) : whW pos = whW pos' := by
  rw [whW, whW, h]

theorem getLsbD_seqBits (w pos n k : Nat) :
    (BitVec.ofNat w (seqBits pos n)).getLsbD k = (decide (k < w) && (decide (k < n) && whW (pos + k))) := by
  rw [seqBits, getLsbD_ofNat_bitsVal]
  by_cases hk : k < n <;> simp [hk]

theorem getLsbD_maskAt {j : Nat} (hj : j < 8) : (maskAt pos).getLsbD j = whW (pos + j) := by
  rw [maskAt, getLsbD_seqBits, decide_eq_true hj, Bool.true_and, Bool.true_and]

theorem maskAt_congr (h : pos ≡ pos' [MOD 127]) : maskAt pos = maskAt pos' := by
  refine BitVec.eq_of_getLsbD_eq fun j hj => ?_
  rw [getLsbD_maskAt hj, getLsbD_maskAt hj, whW_congr (h.add_right j)]

theorem advance_modEq (pos n : Nat) : (advance pos n).toNat ≡ pos + n [MOD 127] := by
  have hlt : (pos + n) % 127 < 127 := Nat.mod_lt _ (by decide)
  have hval : (advance pos n).toNat = (pos + n) % 127 :=
    (BitVec.toNat_ofNat ..).trans (Nat.mod_eq_of_lt (hlt.trans (by decide)))
  rw [hval]
  exact Nat.mod_modEq ..

end Sequence

/-! ### Whitening a byte string (R145, R146) -/

section Whiten

variable {pos pos' : Nat}

@[simp] theorem whiten_length (pos : Nat) (d : List Byte) : (whiten pos d).length = d.length := by
  induction d generalizing pos with
  | nil => rfl
  | cons b d ih => simp [whiten, ih]

/-- Whitening is its own inverse (R145). -/
theorem whiten_whiten (pos : Nat) (d : List Byte) : whiten pos (whiten pos d) = d := by
  induction d generalizing pos with
  | nil => rfl
  | cons b d ih => simp [whiten, ih]

/-- Splitting is exact (R145). -/
theorem whiten_append (pos : Nat) (d1 d2 : List Byte) :
    whiten pos (d1 ++ d2) = whiten pos d1 ++ whiten (pos + 8 * d1.length) d2 := by
  induction d1 generalizing pos with
  | nil => rfl
  | cons b d1 ih =>
    have hpos : pos + 8 + 8 * d1.length = pos + 8 * (d1.length + 1) := by omega
    simp [whiten, ih, hpos]

theorem whiten_congr (h : pos ≡ pos' [MOD 127]) (d : List Byte) : whiten pos d = whiten pos' d := by
  induction d generalizing pos pos' with
  | nil => rfl
  | cons b d ih => rw [whiten, whiten, maskAt_congr h, ih (h.add_right 8)]

theorem getLsbD_whiten {d : List Byte} {i j : Nat} (hi : i < d.length) (hj : j < 8) :
    ((whiten pos d).getD i 0).getLsbD j = ((d.getD i 0).getLsbD j ^^ whW (pos + 8 * i + j)) := by
  induction d generalizing pos i with
  | nil => cases hi
  | cons b d ih =>
    cases i with
    | zero => simp [whiten, getLsbD_maskAt hj]
    | succ i =>
      have hpos : pos + 8 * (i + 1) + j = pos + 8 + 8 * i + j := by omega
      rw [whiten, List.getD_cons_succ, List.getD_cons_succ, ih (Nat.lt_of_succ_lt_succ hi), hpos]

end Whiten

/-! ### The generator behind the table (R141) -/

/-- The register of R141 when its next output is table bit `i`, read back from the table: `p6`, `p5`, `p4` are the next three outputs,
and each of `p3` to `p0` reaches `p6` after the output three steps before has been XOR-ed into it. -/
def tableReg (i : Nat) : Lfsr :=
  BitVec.ofNat 7 (bitsVal [whW (i + 6) ^^ whW (i + 3), whW (i + 5) ^^ whW (i + 2), whW (i + 4) ^^ whW (i + 1),
    whW (i + 3) ^^ whW i, whW (i + 2), whW (i + 1), whW i])

/-- The recurrence of the table, which the feedback of R141 amounts to. -/
theorem whW_recurrence (i : Nat) : (whW (i + 7) ^^ whW (i + 4)) = whW i := by
  have hperiod : ∀ i : Fin 127, (whW (i + 7) ^^ whW (i + 4)) = whW i := by decide +kernel
  have hmod : i % 127 ≡ i [MOD 127] := Nat.mod_modEq ..
  rw [← whW_congr (hmod.add_right 7), ← whW_congr (hmod.add_right 4), ← whW_congr hmod]
  exact hperiod ⟨i % 127, Nat.mod_lt _ (by decide)⟩

theorem lfsrOut_tableReg (i : Nat) : lfsrOut (tableReg i) = whW i := by
  simp [lfsrOut, tableReg, getElem_ofNat_bitsVal]

theorem lfsrStep_tableReg (i : Nat) : lfsrStep (tableReg i) = tableReg (i + 1) := by
  have hpos (n : Nat) : i + 1 + n = i + (n + 1) := by omega
  simp [lfsrStep, tableReg, getElem_ofNat_bitsVal, hpos, whW_recurrence]

theorem tableReg_congr {i j : Nat} (h : i ≡ j [MOD 127]) : tableReg i = tableReg j := by
  simp [tableReg, whW_congr h, fun n => whW_congr (h.add_right n)]

/-- `WIDX[ch]` is where the channel's seed stands in the table (R61, R141). -/
theorem lfsrSeed_eq_tableReg {ch : Byte} (h : ch.toNat ≤ 39) : lfsrSeed ch = tableReg (whIdx ch) := by
  have hall : ∀ c : Fin 40, lfsrSeed (BitVec.ofNat 8 c) = tableReg (whIdx (BitVec.ofNat 8 c)) := by decide +kernel
  simpa using hall ⟨ch.toNat, by omega⟩

theorem lfsrAfter_eq_tableReg {ch : Byte} (h : ch.toNat ≤ 39) (k : Nat) : lfsrAfter ch k = tableReg (whIdx ch + k) := by
  induction k with
  | zero => exact lfsrSeed_eq_tableReg h
  | succ k ih => rw [lfsrAfter, ih, lfsrStep_tableReg, Nat.add_assoc]

theorem lfsrAfter_add_period {ch : Byte} (h : ch.toNat ≤ 39) (k : Nat) : lfsrAfter ch (k + 127) = lfsrAfter ch k := by
  rw [lfsrAfter_eq_tableReg h, lfsrAfter_eq_tableReg h]
  exact tableReg_congr (Nat.add_modEq_right ..)

theorem tableReg_ne_zero (i : Nat) : tableReg i ≠ 0 := by
  have hperiod : ∀ i : Fin 127, tableReg i ≠ 0 := by decide +kernel
  rw [← tableReg_congr (Nat.mod_modEq i 127)]
  exact hperiod ⟨i % 127, Nat.mod_lt _ (by decide)⟩

theorem lfsrAfter_ne_zero {ch : Byte} (h : ch.toNat ≤ 39) (k : Nat) : lfsrAfter ch k ≠ 0 := by
  rw [lfsrAfter_eq_tableReg h]
  exact tableReg_ne_zero _

theorem lfsrAfter_eq_iterate (ch : Byte) (k : Nat) : lfsrAfter ch k = lfsrStep^[k] (lfsrSeed ch) := by
  induction k with
  | zero => rfl
  | succ k ih => rw [lfsrAfter, ih, Function.iterate_succ_apply']

/-- The register returns first after 127 steps: 127 is prime and the seed is not a fixed point. -/
theorem lfsrStep_minimalPeriod : Function.minimalPeriod lfsrStep (lfsrSeed 23) = 127 := by
  have : Fact (Nat.Prime 127) := ⟨by norm_num⟩
  have hreturns : Function.IsPeriodicPt lfsrStep 127 (lfsrSeed 23) :=
    (lfsrAfter_eq_iterate 23 127).symm.trans (lfsrAfter_add_period (by decide) 0)
  exact Function.minimalPeriod_eq_prime hreturns (by decide)

/-- The 127 registers of a cycle differ, so they are all the nonzero ones. -/
theorem exists_lfsrAfter {r : Lfsr} (hr : r ≠ 0) : ∃ k, k < 127 ∧ lfsrAfter 23 k = r := by
  have hinj : Set.InjOn (lfsrAfter 23) (Finset.range 127) := by
    have h := Function.iterate_injOn_Iio_minimalPeriod (f := lfsrStep) (x := lfsrSeed 23)
    rw [lfsrStep_minimalPeriod, ← Finset.coe_range] at h
    simpa only [← lfsrAfter_eq_iterate] using h
  have hnonzero : (Finset.range 127).image (lfsrAfter 23) ⊆ Finset.univ.erase 0 :=
    Finset.image_subset_iff.2 fun k _ => Finset.mem_erase.2 ⟨lfsrAfter_ne_zero (by decide) k, Finset.mem_univ _⟩
  have hall : (Finset.range 127).image (lfsrAfter 23) = Finset.univ.erase 0 := by
    refine Finset.eq_of_subset_of_card_le hnonzero ?_
    rw [Finset.card_image_of_injOn hinj, Finset.card_erase_of_mem (Finset.mem_univ _), Finset.card_univ]
    have hcard : Fintype.card Lfsr = 2 ^ 7 := (Fintype.card_congr BitVec.equivFin.toEquiv).trans (Fintype.card_fin _)
    simp [hcard]
  have hmem : r ∈ (Finset.range 127).image (lfsrAfter 23) := hall ▸ Finset.mem_erase.2 ⟨hr, Finset.mem_univ _⟩
  simpa using hmem

/-- Every register is a step of another: 0 of itself, and a nonzero one of the register before it on the cycle. -/
theorem lfsrStep_bijective : Function.Bijective lfsrStep := by
  refine Finite.surjective_iff_bijective.1 fun r => ?_
  by_cases hr : r = 0
  · exact ⟨0, hr.symm⟩
  · obtain ⟨k, -, hk⟩ := exists_lfsrAfter hr
    exact ⟨lfsrAfter 23 (k + 126), (lfsrAfter_add_period (by decide) k).trans hk⟩

/-! The byte register of R141 is the 7-bit register above a bit 0 that stays 0. -/

theorem byteLfsrOut_append (r : Lfsr) : byteLfsrOut (r ++ 0#1) = lfsrOut r :=
  BitVec.getLsbD_append ..

theorem byteLfsrStep_append (r : Lfsr) : byteLfsrStep (r ++ 0#1) = lfsrStep r ++ 0#1 := by
  revert r
  decide +kernel

theorem byteLfsrSeed_append {ch : Byte} (h : ch.toNat ≤ 39) : byteLfsrSeed ch = lfsrSeed ch ++ 0#1 := by
  have hall : ∀ c : Fin 40, byteLfsrSeed (BitVec.ofNat 8 c) = lfsrSeed (BitVec.ofNat 8 c) ++ 0#1 := by decide +kernel
  simpa using hall ⟨ch.toNat, by omega⟩

theorem byteLfsrAfter_append {ch : Byte} (h : ch.toNat ≤ 39) (k : Nat) : byteLfsrAfter ch k = lfsrAfter ch k ++ 0#1 := by
  induction k with
  | zero => exact byteLfsrSeed_append h
  | succ k ih => rw [byteLfsrAfter, ih, byteLfsrStep_append, lfsrAfter]

/-- Settles O22: the register is `tableReg` at `WIDX[ch] + k` steps on, and its cycle has the prime length 127. -/
theorem whiteningIsTheLfsr : Obligations.WhiteningIsTheLfsr := by
  refine ⟨fun ch k hch => ?_, lfsrStep_bijective, rfl, fun r => exists_lfsrAfter⟩
  have hout : lfsrOut (lfsrAfter ch k) = wbit ch k := by rw [lfsrAfter_eq_tableReg hch, lfsrOut_tableReg, wbit]
  refine ⟨hout, ?_, lfsrAfter_ne_zero hch k, lfsrAfter_add_period hch k⟩
  rw [byteLfsrAfter_append hch, byteLfsrOut_append, hout]

/-! ### The operations -/

section Whitening

variable {s : State} {ch : Byte} {start : Half} {data : List Byte}

theorem exec_whLoad (hch : ch.toNat ≤ 39) : exec (.whLoad ch start) s =
    .next ((s.setWhc { loaded := true, ch := ch, pos := advance (whIdx ch) start.toNat }).answer {}) := by
  have hrun : exec (.whLoad ch start) s = execWhLoad ch start s := rfl
  rw [hrun, execWhLoad, served_both rfl, if_neg (by simpa [badChan_true] using hch)]
  rfl

theorem exec_whStep {n : Byte} (hpos : 1 ≤ n.toNat) (hle : n.toNat ≤ 32) : exec (.whStep n) s =
    if s.whc.loaded = false then .next (s.answer (errorResponse .notLoaded))
    else .next ((s.setWhc { s.whc with pos := advance s.whc.pos.toNat n.toNat }).answer
      { words := [toWord (seqBits s.whc.pos.toNat n.toNat)] }) := by
  have hrun : exec (.whStep n) s = execWhStep n s := rfl
  rw [hrun, execWhStep, served_both rfl, if_neg (by omega)]
  rfl

theorem exec_whXor (hch : ch.toNat ≤ 39) (hlen : data.length ≤ 263) : exec (.whXor ch start data) s =
    .next (s.answer { rb := toHalf data.length, data := whiten (whIdx ch + start.toNat) data }) := by
  have hrun : exec (.whXor ch start data) s = execWhXor ch start data s := rfl
  rw [hrun, execWhXor, served_both rfl, if_neg (by rw [badChan_or_tooLong]; omega)]
  rfl

theorem exec_whXors (hlen : data.length ≤ 263) : exec (.whXors data) s =
    if s.whc.loaded = false then .next (s.answer (errorResponse .notLoaded))
    else .next ((s.setWhc { s.whc with pos := advance s.whc.pos.toNat (8 * data.length) }).answer
      { rb := toHalf data.length, data := whiten s.whc.pos.toNat data }) := by
  have hrun : exec (.whXors data) s = execWhXors data s := rfl
  rw [hrun, execWhXors, served_both rfl, if_neg (by simpa [tooLong_true] using hlen)]
  rfl

theorem exec_whRefl (hlen : data.length ≤ 263) : exec (.whRefl data) s =
    .next (s.answer { rb := toHalf data.length, data := data.map rev8 }) := by
  have hrun : exec (.whRefl data) s = execWhRefl data s := rfl
  rw [hrun, execWhRefl, served_both rfl, if_neg (by simpa [tooLong_true] using hlen)]
  rfl

theorem exec_crcRev24 {v : Crc} : exec (.crcRev24 v) s = .next (s.answer { words := [(rev24 v).setWidth 32] }) :=
  served_both (s := s) (op := .crcRev24) rfl

end Whitening

/-! ### Requests of one agent, one after the other -/

/-- `WH_XORS` on a loaded context `c` (R146). -/
theorem issued_whXors {s : State} {g : Agent} {c : WhCtx} {data : List Byte} (hc : (s.as g).whc = c) (hl : c.loaded = true)
    (hlen : data.length ≤ 263) : issued g (.whXors data) s =
      .next (((s.as g).setWhc { c with pos := advance c.pos.toNat (8 * data.length) }).answer
        { rb := toHalf data.length, data := whiten c.pos.toNat data }) := by
  subst hc
  exact (exec_whXors hlen).trans (if_neg (ne_false_of_eq_true hl))

/-- The response just sent is the last on its issuer's port (R103). -/
theorem State.lastOn_answer {s : State} {g : Agent} (h : s.agent = g) (r : Response) : (s.answer r).lastOn g = some r := by
  rw [State.lastOn, ← h, State.answer_port_issuer, List.getLast?_concat]

/-- An agent's next request finds the stream context its last one wrote (R45). -/
theorem State.whc_setWhc_answer (s : State) (g : Agent) (c : WhCtx) (r : Response) :
    ((((s.as g).setWhc c).answer r).as g).whc = c := by
  cases g <;> rfl

/-! ### The obligations of the operations -/

/-- Settles O24: the bits, the involution and the split are those of `whiten`. -/
theorem whXorResult : Obligations.WhXorResult := by
  refine ⟨fun ch start data s => exec_outOfDomain (i := .whXor ch start data) rfl, fun ch start data s hch hlen => ?_,
    fun ch start d1 d2 s hch hlen hfit => ?_⟩
  · refine ⟨whiten (whIdx ch + start.toNat) data, exec_whXor hch hlen, whiten_length .., fun i j hi hj => ?_, ?_⟩
    · rw [getLsbD_whiten hi hj, Nat.add_assoc, Nat.add_assoc, Nat.add_assoc]
    · rw [exec_whXor hch (by simpa using hlen), whiten_whiten, whiten_length]
      rfl
  · have hstart : (start + BitVec.ofNat 16 (8 * d1.length)).toNat = start.toNat + 8 * d1.length := by
      rw [BitVec.toNat_add, BitVec.toNat_ofNat]
      omega
    refine ⟨_, _, exec_whXor hch (by omega), exec_whXor hch (by omega), ?_⟩
    rw [exec_whXor hch (by simpa using hlen), whiten_append, hstart, List.length_append, Nat.add_assoc]
    rfl

/-- Settles O26: the positions the stream passes through are those of the block modulo 127, the period of the sequence. -/
theorem whStreamEqualsBlock : Obligations.WhStreamEqualsBlock := by
  intro g ch start d1 d2 s hch hlen
  have hcut1 : d1.length ≤ 263 := by omega
  have hcut2 : d2.length ≤ 263 := by omega
  have hpos := advance_modEq (whIdx ch) start.toNat
  have hpos' := (advance_modEq (advance (whIdx ch) start.toNat).toNat (8 * d1.length)).trans (hpos.add_right _)
  refine ⟨_, _, _, _, _, _, _, exec_whLoad hch, issued_whXors (State.whc_setWhc_answer ..) rfl hcut1,
    State.lastOn_answer rfl _, issued_whXors (State.whc_setWhc_answer ..) rfl hcut2, State.lastOn_answer rfl _,
    exec_whXor hch (by simpa using hlen), State.lastOn_answer rfl _, rfl, rfl, rfl, ?_, whiten_length .., whiten_length ..⟩
  exact (whiten_append ..).trans (congrArg₂ _ (whiten_congr hpos.symm d1) (whiten_congr hpos'.symm d2))

/-- Settles O27: both operations are `BitVec.reverse`, of each byte and of the 24 bits. -/
theorem bitReversals : Obligations.BitReversals := by
  refine ⟨fun data s => exec_outOfDomain (i := .whRefl data) rfl, fun data s hlen => ?_, fun v s => ?_⟩
  · refine ⟨data.map rev8, exec_whRefl hlen, List.length_map .., fun i j hi hj => ?_, ?_⟩
    · have hbyte : (data.map rev8).getD i 0 = rev8 (data.getD i 0) := List.getD_map data 0 rev8
      rw [hbyte, rev8, getLsbD_reverse_of_lt _ hj]
    · rw [exec_whRefl (by simpa using hlen), List.map_map, rev8_comp_rev8, List.map_id, List.length_map]
      rfl
  · refine ⟨rev24 v, exec_crcRev24, fun i hi => getLsbD_reverse_of_lt v hi, ?_⟩
    rw [exec_crcRev24, rev24_rev24]

/-- Settles O23: the eight mask bytes are evaluated for each of the 40 channels. -/
theorem firstMaskBytes : Obligations.FirstMaskBytes := by
  intro s ch
  refine (exec_whXor (by simp; omega) (by decide)).trans ?_
  refine congrArg (fun d => Host.Outcome.next (s.answer { rb := 8, data := d })) ?_
  revert ch
  decide +kernel

/-- Settles O25: behind the domain and `NOTLOADED` checks, the bits drawn are those of `seqBits` and `whiten`. -/
theorem whStreamResults : Obligations.WhStreamResults := by
  refine ⟨fun s c => ⟨fun h => ?_, fun h => ?_⟩, fun ch start s => ?_, fun n s => ?_, fun data s => ?_⟩
  · simp [State.whc, State.setWhc, h]
  · simp [State.whc, State.setWhc, h]
  · exact ⟨exec_outOfDomain (i := .whLoad ch start) rfl, exec_whLoad⟩
  · refine ⟨exec_outOfDomain (i := .whStep n) rfl, fun hpos hle hl => ?_, fun hpos hle hl => ?_⟩
    · rw [exec_whStep hpos hle, if_pos hl]
    · refine ⟨_, (exec_whStep hpos hle).trans (if_neg (ne_false_of_eq_true hl)), fun k => ?_⟩
      rw [toWord, getLsbD_seqBits]
      by_cases hk : k < n.toNat
      · simp [hk, hk.trans_le hle]
      · simp [hk]
  · refine ⟨exec_outOfDomain (i := .whXors data) rfl, fun hlen hl => ?_, fun hlen hl => ?_⟩
    · rw [exec_whXors hlen, if_pos hl]
    · exact ⟨_, (exec_whXors hlen).trans (if_neg (ne_false_of_eq_true hl)), whiten_length .., fun i j => getLsbD_whiten⟩

end Sys2Proof.Machine
end

section
/-! PROOFS. The CRC Engine (R160 to R169). A bit step is the bit-linear form of R161, so a run of steps is linear in the register and
the data bits together (`foldl_fstep_xor`), is undone by the reverse steps in reverse order (`foldl_undo`), and on the register's own
low bits only shifts (`foldl_fstep_ownBits`). The table of R163 and the residue of R169 follow from these three. -/

namespace Sys2Proof.Machine

/-! ### The bit steps as sums (R161, R166) -/

theorem or_twoPow_eq_xor {w k : Nat} {x : BitVec w} (h : x.getLsbD k = false) :
    x ||| BitVec.twoPow w k = x ^^^ BitVec.twoPow w k := by
  refine BitVec.eq_of_getLsbD_eq fun i hi => ?_
  rw [BitVec.getLsbD_or, BitVec.getLsbD_xor, BitVec.getLsbD_twoPow]
  by_cases hik : k = i
  · subst hik
    simp [h]
  · simp [hik]

/-- What R161 XORs into the shifted register for the feedback bit `f`. -/
def feedback (f : Bool) : Crc := if f then 0xDA6000#24 else 0#24

theorem feedback_xor (f f' : Bool) : feedback (f ^^ f') = feedback f ^^^ feedback f' := by
  revert f f'
  decide

theorem getLsbD_feedback_top (f : Bool) : (feedback f).getLsbD 23 = f := by
  revert f
  decide

theorem feedback_shiftLeft (f : Bool) : feedback f <<< 1 = if f then Config.crcMaskR else 0#24 := by
  revert f
  decide

section Steps

variable (c c' : Crc) (b b' : Bool)

/-- The bit set before the mask of R161 is above every bit of the shifted register. -/
theorem fstep_eq : fstep c b = c >>> 1 ^^^ feedback (c.getLsbD 0 ^^ b) := by
  have htop : c >>> 1 ||| 0x800000#24 = c >>> 1 ^^^ 0x800000#24 := or_twoPow_eq_xor (k := 23) (by simp)
  unfold fstep feedback
  split_ifs
  · rw [htop, BitVec.xor_assoc]
    rfl
  · rw [BitVec.xor_zero]

theorem rstep_eq : rstep c b =
    c <<< 1 ^^^ (if c.getLsbD 23 then Config.crcMaskR else 0#24) ^^^ BitVec.setWidth 24 (BitVec.ofBool (c.getLsbD 23 ^^ b)) := by
  have hlow (f : Bool) : c <<< 1 ||| (if f then 1#24 else 0#24) = c <<< 1 ^^^ BitVec.setWidth 24 (BitVec.ofBool f) := by
    cases f with
    | false => exact BitVec.or_zero.trans BitVec.xor_zero.symm
    | true => exact or_twoPow_eq_xor (k := 0) (by simp)
  simp only [rstep, hlow]
  cases c.getLsbD 23 with
  | false => simp
  | true =>
    simp only [if_true]
    ac_rfl

/-- A register is its upper 23 bits and its bit 0. -/
theorem shiftRight_shiftLeft_xor : c >>> 1 <<< 1 ^^^ BitVec.setWidth 24 (BitVec.ofBool (c.getLsbD 0)) = c := by
  refine BitVec.eq_of_getLsbD_eq fun i hi => ?_
  cases i with
  | zero => simp
  | succ i => simp [hi, Nat.add_comm]

/-- The top bit after a step is the feedback bit, which tells the reverse step what to remove (R166). -/
theorem rstep_fstep : rstep (fstep c b) b = c := by
  have htop : (fstep c b).getLsbD 23 = (c.getLsbD 0 ^^ b) := by
    rw [fstep_eq, BitVec.getLsbD_xor, getLsbD_feedback_top]
    simp
  have hbit : ((c.getLsbD 0 ^^ b) ^^ b) = c.getLsbD 0 := by simp
  rw [rstep_eq, htop, hbit, fstep_eq, BitVec.shiftLeft_xor_distrib, feedback_shiftLeft, BitVec.xor_assoc (c >>> 1 <<< 1),
    BitVec.xor_self, BitVec.xor_zero, shiftRight_shiftLeft_xor]

/-- On the finite register the left inverse of `rstep_fstep` is a right inverse too. -/
theorem fstep_rstep : fstep (rstep c b) b = c := by
  have hleft : Function.LeftInverse (rstep · b) (fstep · b) := (rstep_fstep · b)
  have hsurj : Function.Surjective (fstep · b) := Finite.surjective_of_injective hleft.injective
  exact hleft.rightInverse_of_surjective hsurj c

theorem fstep_xor : fstep (c ^^^ c') (b ^^ b') = fstep c b ^^^ fstep c' b' := by
  have hbits : ((c ^^^ c').getLsbD 0 ^^ (b ^^ b')) = ((c.getLsbD 0 ^^ b) ^^ (c'.getLsbD 0 ^^ b')) := by
    rw [BitVec.getLsbD_xor, Bool.xor_assoc, Bool.xor_assoc, Bool.xor_left_comm b]
  rw [fstep_eq, fstep_eq, fstep_eq, hbits, feedback_xor, BitVec.ushiftRight_xor_distrib]
  ac_rfl

/-- A data bit equal to the bit shifted out feeds nothing back. -/
theorem fstep_ownBit : fstep c (c.getLsbD 0) = c >>> 1 := by
  rw [fstep_eq, Bool.xor_self]
  exact BitVec.xor_zero

end Steps

/-! ### Runs of bit steps -/

/-- Steps undone one by one, the last first. -/
theorem foldl_undo {α β : Type} {f g : α → β → α} (h : ∀ c b, g (f c b) b = c) (bs : List β) (c : α) :
    bs.reverse.foldl g (bs.foldl f c) = c := by
  induction bs generalizing c with
  | nil => rfl
  | cons b bs ih => rw [List.foldl_cons, List.reverse_cons, List.foldl_append, ih, List.foldl_cons, h, List.foldl_nil]

theorem foldl_rstep_foldl_fstep (bs : List Bool) (c : Crc) : bs.reverse.foldl rstep (bs.foldl fstep c) = c :=
  foldl_undo rstep_fstep bs c

theorem foldl_fstep_foldl_rstep (bs : List Bool) (c : Crc) : bs.foldl fstep (bs.reverse.foldl rstep c) = c := by
  have hundo := foldl_undo fstep_rstep bs.reverse c
  rwa [List.reverse_reverse] at hundo

theorem foldl_fstep_injective (bs : List Bool) : Function.Injective fun c => bs.foldl fstep c :=
  Function.LeftInverse.injective (g := fun c => bs.reverse.foldl rstep c) (foldl_rstep_foldl_fstep bs)

/-- The CRC is linear over XOR in the register and the data bits together (R163). -/
theorem foldl_fstep_xor (p q : Nat → Bool) (js : List Nat) (c c' : Crc) :
    (js.map fun j => p j ^^ q j).foldl fstep (c ^^^ c') = (js.map p).foldl fstep c ^^^ (js.map q).foldl fstep c' := by
  induction js generalizing c c' with
  | nil => rfl
  | cons j js ih => simp only [List.map_cons, List.foldl_cons, fstep_xor, ih]

/-- A register that meets its own low bits as data is only shifted (R162, R163). -/
theorem foldl_fstep_ownBits (c : Crc) (n : Nat) : ((List.range n).map c.getLsbD).foldl fstep c = c >>> n := by
  induction n with
  | zero => rfl
  | succ n ih =>
    have hout : (c >>> n).getLsbD 0 = c.getLsbD n := by rw [BitVec.getLsbD_ushiftRight, Nat.add_zero]
    rw [List.range_succ, List.map_append, List.foldl_append, ih, List.map_singleton, List.foldl_cons, List.foldl_nil, ← hout,
      fstep_ownBit, BitVec.shiftRight_add]

/-! ### Bytes (R162, R163) -/

theorem fbyte_xor (c c' : Crc) (d d' : Byte) : fbyte (c ^^^ c') (d ^^^ d') = fbyte c d ^^^ fbyte c' d' := by
  have hbits : byteBits (d ^^^ d') = (List.range 8).map fun j => d.getLsbD j ^^ d'.getLsbD j := by
    simp only [byteBits, BitVec.getLsbD_xor]
  rw [fbyte, hbits, foldl_fstep_xor]
  rfl

/-- The low eight register bits as data byte: the other sixteen are only shifted. -/
theorem fbyte_ownByte (c : Crc) : fbyte c (c.setWidth 8) = c >>> 8 := by
  have hbits : byteBits (c.setWidth 8) = (List.range 8).map c.getLsbD :=
    List.map_congr_left fun j hj => by simp [List.mem_range.1 hj]
  rw [fbyte, hbits, foldl_fstep_ownBits]

/-- Each entry of the table, evaluated (R164). -/
theorem crcLut_eq_fbyte (i : Byte) : crcLut i = fbyte (i.setWidth 24) 0 := by
  revert i
  decide +kernel

/-- The table step is eight bit steps (R163): the register is the sum of a register whose low byte is the data byte, which is only
shifted, and the table index, which meets the data byte 0. -/
theorem tbyte_eq_fbyte (c : Crc) (d : Byte) : tbyte c d = fbyte c d := by
  set i : Byte := c.setWidth 8 ^^^ d with hi
  set wide : Crc := i.setWidth 24 with hwide
  have hlow : (c ^^^ wide).setWidth 8 = d := by
    rw [BitVec.setWidth_xor, hwide, BitVec.setWidth_setWidth_of_le _ (by decide), BitVec.setWidth_eq, hi, ← BitVec.xor_assoc,
      BitVec.xor_self, BitVec.zero_xor]
  have hhigh : (c ^^^ wide) >>> 8 = c >>> 8 := by
    have hbyte : wide >>> 8 = 0#24 := by
      ext k hk
      simp [hwide]
    rw [BitVec.ushiftRight_xor_distrib, hbyte, BitVec.xor_zero]
  have hsum : fbyte (c ^^^ wide ^^^ wide) (d ^^^ 0#8) = fbyte (c ^^^ wide) d ^^^ fbyte wide 0 := fbyte_xor ..
  have hshift : fbyte (c ^^^ wide) d = c >>> 8 := by
    have hown := fbyte_ownByte (c ^^^ wide)
    rwa [hlow, hhigh] at hown
  rw [tbyte, crcLut_eq_fbyte, ← hshift, ← hsum, BitVec.xor_assoc, BitVec.xor_self, BitVec.xor_zero, BitVec.xor_zero]

/-! ### Byte strings (R162, R163, R165, R169) -/

section Strings

variable (x : Crc) (data : List Byte)

theorem crcForward_eq : crcForward x data = (data.flatMap byteBits).foldl fstep x :=
  List.foldl_flatMap.symm

theorem crcReverse_eq : crcReverse x data = (data.flatMap byteBits).reverse.foldl rstep x := by
  rw [List.reverse_flatMap, List.foldl_flatMap]
  rfl

theorem crcTable_eq_crcForward : crcTable x data = crcForward x data :=
  congrArg (fun f => data.foldl f x) (funext₂ tbyte_eq_fbyte)

theorem crcReverse_crcForward : crcReverse (crcForward x data) data = x := by
  rw [crcReverse_eq, crcForward_eq, foldl_rstep_foldl_fstep]

theorem crcForward_crcReverse : crcForward (crcReverse x data) data = x := by
  rw [crcReverse_eq, crcForward_eq, foldl_fstep_foldl_rstep]

theorem crcForward_append (d1 d2 : List Byte) : crcForward x (d1 ++ d2) = crcForward (crcForward x d1) d2 :=
  List.foldl_append

end Strings

theorem map_getLsbD_append {m n : Nat} (y : BitVec m) (z : BitVec n) :
    (List.range (n + m)).map (y ++ z).getLsbD = (List.range n).map z.getLsbD ++ (List.range m).map y.getLsbD := by
  rw [List.range_add, List.map_append, List.map_map]
  refine congrArg₂ (· ++ ·) (List.map_congr_left fun j hj => ?_) (List.map_congr_left fun j _ => ?_)
  · rw [BitVec.getLsbD_append, if_pos (List.mem_range.1 hj)]
  · simp [BitVec.getLsbD_append]

section Wire

variable (x : Crc) (body : List Byte) (c0 c1 c2 : Byte)

/-- The bits of three bytes in protocol order are those of the number they are (R80, R83). -/
theorem flatMap_byteBits_le24 : [c0, c1, c2].flatMap byteBits = (List.range 24).map (le24 c0 c1 c2).getLsbD := by
  have hlow := map_getLsbD_append c1 c0
  have hall := map_getLsbD_append c2 (c1 ++ c0)
  rw [hlow, List.append_assoc] at hall
  exact hall.symm

/-- The CRC bytes drive the register to 0 exactly when they are the register (R162, R169). -/
theorem crcForward_eq_zero_iff : crcForward x [c0, c1, c2] = 0 ↔ x = le24 c0 c1 c2 := by
  have hzero : (le24 c0 c1 c2) >>> 24 = 0 := BitVec.ushiftRight_eq_zero (Nat.le_refl 24)
  have hclears := (foldl_fstep_ownBits (le24 c0 c1 c2) 24).trans hzero
  rw [crcForward_eq, flatMap_byteBits_le24, ← hclears]
  exact (foldl_fstep_injective _).eq_iff

theorem bodyCrc_append : bodyCrc x (body ++ [c0, c1, c2]) = crcForward x body := by
  simp [bodyCrc]

theorem wireCrc_append : wireCrc (body ++ [c0, c1, c2]) = le24 c0 c1 c2 := by
  simp [wireCrc]

theorem crcOk_append : crcOk x (body ++ [c0, c1, c2]) = true ↔ crcForward x body = le24 c0 c1 c2 := by
  simp [crcOk, bodyCrc_append, wireCrc_append]

end Wire

/-! ### The operations -/

section Engine

variable {s : State} {x : Crc} {data : List Byte}

/-- An operation of either agent whose one domain check passes answers its result. -/
theorem served_inDomain {op : Op} {outside : Bool} {r : Response} (hboth : rights op = .both) (hin : outside = false) :
    served op s (if outside then raise s .range else reply s r) = .next (s.answer r) := by
  rw [served_both hboth, hin]
  rfl

theorem exec_crcFwd (hlen : data.length ≤ 263) :
    exec (.crcFwd x data) s = .next (s.answer { words := [(crcForward x data).setWidth 32] }) :=
  served_inDomain (op := .crcFwd) rfl (tooLong_false.2 hlen)

theorem exec_crcRev (hlen : data.length ≤ 263) :
    exec (.crcRev x data) s = .next (s.answer { words := [(crcReverse x data).setWidth 32] }) :=
  served_inDomain (op := .crcRev) rfl (tooLong_false.2 hlen)

/-- `CRC_FWDT` runs as `CRC_FWD` (R163). -/
theorem exec_crcFwdt_eq_exec_crcFwd : exec (.crcFwdt x data) s = exec (.crcFwd x data) s := by
  have hrun : exec (.crcFwdt x data) s = execCrcFwdt x data s := rfl
  rw [hrun, execCrcFwdt, crcTable_eq_crcForward]
  rfl

theorem exec_crcChk (hlow : 3 ≤ data.length) (hhigh : data.length ≤ 263) : exec (.crcChk x data) s = .next (s.answer
    { ra := toByte (bit (crcOk x data)), words := [(bodyCrc x data).setWidth 32, (wireCrc data).setWidth 32] }) :=
  have hfits : (decide (data.length < 3) || tooLong data) = false := by
    rw [decide_eq_false (Nat.not_lt.2 hlow), tooLong_false.2 hhigh, Bool.false_or]
  served_inDomain (op := .crcChk) rfl hfits

end Engine

/-- Settles O28: the register functions are mutual inverses, and the operations answer them. -/
theorem crcForwardAndReverse : Obligations.CrcForwardAndReverse := by
  refine ⟨fun c b => ⟨fstep_eq c b, rstep_fstep c b⟩, fun x data s hlen => ?_, fun x data s hlen => ?_⟩
  · exact ⟨exec_outOfDomain (i := .crcFwd x data) rfl hlen, exec_outOfDomain (i := .crcRev x data) rfl hlen⟩
  · refine ⟨crcForward x data, crcReverse x data, crcForward_eq x data, exec_crcFwd hlen, ?_, crcReverse_eq x data,
      exec_crcRev hlen, ?_⟩
    · rw [exec_crcRev hlen, crcReverse_crcForward]
    · rw [exec_crcFwd hlen, crcForward_crcReverse]

/-- Settles O29: byte by byte, the table step is `fbyte`. -/
theorem crcTableEqualsBitwise : Obligations.CrcTableEqualsBitwise := by
  refine ⟨crcLut_eq_fbyte, fun x data s => ⟨exec_outOfDomain (i := .crcFwdt x data) rfl, fun hlen => ?_⟩⟩
  rw [exec_crcFwdt_eq_exec_crcFwd, exec_crcFwd hlen, crcForward_eq]

/-- Settles O30: the CRC bytes meet the register of the body, so they clear it exactly when they equal it. -/
theorem crcCheckResult : Obligations.CrcCheckResult := by
  refine ⟨fun x data s => exec_outOfDomain (i := .crcChk x data) rfl, fun x body c0 c1 c2 s hlen => ?_⟩
  have hok := crcOk_append x body c0 c1 c2
  have hra : toByte (bit (crcOk x (body ++ [c0, c1, c2]))) = if crcForward x body = le24 c0 c1 c2 then 1 else 0 := by
    by_cases h : crcForward x body = le24 c0 c1 c2
    · rw [if_pos h, hok.2 h]
      rfl
    · rw [if_neg h, Bool.eq_false_iff.2 (mt hok.1 h)]
      rfl
  rw [← crcForward_eq, ← crcForward_eq]
  refine ⟨?_, ?_, hok⟩
  · rw [exec_crcChk (by simp) (by simpa using hlen), hra, bodyCrc_append, wireCrc_append]
    rfl
  · rw [crcForward_append, crcForward_eq_zero_iff]
    rfl

end Sys2Proof.Machine
end

section
/-! PROOFS. What an operation does to the buffer pool, said once (R180 to R191): it leaves buffers, queue and parameters alone, or
it makes one of the six moves of `PoolMove`, each under its guard (`exec_poolMove`); and a step does what the operation it serves
does (`step_served`). -/

namespace Sys2Proof.Machine

/-! ### What leaves the pool alone -/

/-- The elements the pool invariants read. -/
structure Pool where
  pb : Vector Buffer 4
  pbq : List (Fin 4)
  params : Params

def State.pool (s : State) : Pool := { pb := s.pb, pbq := s.pbq, params := s.params }

theorem see_pool (s : State) (aa : Word) : (see s aa).1.pool = s.pool := by
  rw [see_frame]
  rfl

theorem Scan.record_pool (acc : Scan) (ch : Byte) (p : Nat) (window : List Bool) :
    (acc.record ch p window).state.pool = acc.state.pool := by
  unfold Scan.record
  dsimp only
  split
  · exact see_pool _ _
  · exact see_pool _ _

theorem scanFrom_pool (ch : Byte) (pats : List (List Bool)) (n p : Nat) (window : List Bool) (acc : Scan) :
    (scanFrom ch pats n p window acc).state.pool = acc.state.pool := by
  induction n generalizing p window acc with
  | zero => rfl
  | succ n ih =>
    unfold scanFrom
    dsimp only
    split
    · split
      · exact acc.record_pool ch p window
      · exact (ih _ _ _).trans (acc.record_pool ch p window)
    · exact ih _ _ _

theorem scan_pool (s : State) (ch : Byte) (data : List Byte) : (scan s ch data).state.pool = s.pool := scanFrom_pool ..

theorem stageCrc_pool (s : State) (b : Fin 4) (p : PacketView) : (stageCrc s b p).state.pool = s.pool := by
  unfold stageCrc
  split
  · rfl
  · rfl

theorem stageInterval_pool (s : State) (p : PacketView) : (stageInterval s p).state.pool = s.pool := by
  unfold stageInterval
  dsimp only
  split_ifs
  all_goals rfl

theorem inconclusive_pool (s : State) : (inconclusive s).state.pool = s.pool := by
  unfold inconclusive
  dsimp only
  split
  · rfl
  · rfl

theorem stageIncrement_pool (s : State) (p : PacketView) : (stageIncrement s p).state.pool = s.pool := by
  unfold stageIncrement
  split
  · rfl
  · split
    · split
      · rfl
      · exact inconclusive_pool s
    · rfl

theorem stageFollow_pool (s : State) (p : PacketView) : (stageFollow s p).state.pool = s.pool := by
  unfold stageFollow
  dsimp only
  split
  · rfl
  · rfl

/-- A packet is read out of its buffer and the buffer left as it is (R237, R238). -/
theorem intake_pool (s : State) (b : Fin 4) : (intake s b).state.pool = s.pool := by
  unfold intake
  dsimp only
  split
  · rfl
  · split
    · rfl
    · split
      · exact stageCrc_pool s b _
      · split
        · rfl
        · unfold stageHandler
          split
          · exact stageInterval_pool s _
          · exact stageIncrement_pool s _
          · exact stageFollow_pool s _
          · rfl
          · rfl
          · rfl

theorem unlink_pool (s : State) : s.unlink.pool = s.pool := by
  unfold State.unlink
  split
  · rfl
  · rfl

theorem timeouts_pool {s u : State} {now : Ts} {events : List Event} (h : timeouts s now = some (u, events)) :
    u.pool = s.pool := by
  unfold timeouts at h
  dsimp only at h
  split_ifs at h
  · cases h
    rfl
  · cases h
    rfl
  · cases h
    exact unlink_pool s

/-! ### What moves a buffer -/

/-- What an operation does to the pool: nothing, or one move with its guard (R180). Only `PB_ABORT` frees a capturing buffer without
`MALFORMED`. -/
inductive PoolMove : Op → State → State → Prop
  | none {op : Op} {s t : State} (h : t.pool = s.pool) : PoolMove op s t
  | acquire {s t : State} (b : Fin 4) (hnone : s.NoneCapturing) (hfree : s.pb[b].tag = .free)
      (h : t.pool = (s.setBuf b s.pb[b].acquired).pool) : PoolMove .pbAcq s t
  | append {s t : State} (b : Fin 4) {data : List Byte} (hcap : s.pb[b].tag = .capturing)
      (hlen : s.pb[b].len.toNat + data.length ≤ 263) (hdecl : overDeclared s.params (s.pb[b].bytes ++ data) = false)
      (h : t.pool = (s.setBuf b (s.pb[b].append data)).pool) : PoolMove .pbWrite s t
  | sample {s t : State} (b : Fin 4) (x : Byte) (hcap : s.pb[b].tag = .capturing)
      (h : t.pool = (s.setBuf b (s.pb[b].sample x)).pool) : PoolMove .pbRssi s t
  | commit {s t : State} (b : Fin 4) {chan : Byte} {ts : Ts} {aa : Word} (hcap : s.pb[b].tag = .capturing)
      (hwhole : s.pb[b].whole s.params = true)
      (h : t.pool = { (s.setBuf b { s.pb[b] with chan := chan, ts := ts, aa := aa, tag := .queued }).pool with
        pbq := s.pbq ++ [b] }) : PoolMove .pbCommit s t
  | drop {op : Op} {s t : State} (b : Fin 4) (hop : op ∈ [.pbAbort, .pbWrite, .pbCommit]) (hcap : s.pb[b].tag = .capturing)
      (hmal : op ≠ .pbAbort → t.lastOn s.agent = some (errorResponse .malformed))
      (h : t.pool = (s.setTag b .free).pool) : PoolMove op s t
  | release {s t : State} (b : Fin 4) (hq : s.pb[b].tag = .queued)
      (h : t.pool = { (s.setTag b .free).pool with pbq := s.pbq.filter fun x => x != b }) : PoolMove .pbRel s t

theorem Failed.pool {op : Op} {s t : State} (h : Failed op s t) : t.pool = s.pool := by
  obtain ⟨st, -, rfl⟩ := h
  rfl

/-- A buffer dropped with `MALFORMED` (R183, R185). -/
theorem PoolMove.of_malformed {op : Op} {s t : State} {b : Fin 4} (hop : op ∈ [.pbAbort, .pbWrite, .pbCommit])
    (hcap : s.capturing = some b) (ht : t = (s.setTag b .free).answer (errorResponse .malformed)) : PoolMove op s t :=
  .drop b hop (capturing_some.1 hcap).1 (fun _ => ht ▸ State.lastOn_answer (s := s.setTag b .free) rfl _) (ht ▸ rfl)

/-- An operation that answers after updates that left the pool alone. -/
theorem PoolMove.of_answer {op : Op} {s u t : State} {r : Response} (ht : t = u.answer r) (hu : u.pool = s.pool) :
    PoolMove op s t := by
  subst ht
  exact .none hu

theorem Effect.poolMove {i : Instr} {s t : State} (h : Effect i s t) : PoolMove (opOf i) s t := by
  cases i with
  | pbAcq =>
    obtain ⟨hnone, ⟨-, rfl⟩ | ⟨b, hb, rfl⟩⟩ := h
    · exact .none rfl
    · exact .acquire b (capturing_none.1 hnone) (findTag_some.1 hb).1 rfl
  | pbWrite =>
    obtain ⟨-, b, hb, ⟨ht, -⟩ | ⟨hlen, hdecl, rfl⟩⟩ := h
    · exact .of_malformed (op := .pbWrite) (by decide) hb ht
    · exact .append b (capturing_some.1 hb).1 hlen hdecl rfl
  | pbRssi x =>
    obtain ⟨b, hb, rfl⟩ := h
    exact .sample b x (capturing_some.1 hb).1 rfl
  | pbCommit =>
    obtain ⟨-, b, hb, ⟨-, ht⟩ | ⟨hwhole, rfl⟩⟩ := h
    · exact .of_malformed (op := .pbCommit) (by decide) hb ht
    · exact .commit b (capturing_some.1 hb).1 hwhole rfl
  | pbAbort =>
    obtain ⟨b, hb, rfl⟩ := h
    exact .drop b (by decide) (capturing_some.1 hb).1 (absurd rfl) rfl
  | pbRel =>
    obtain ⟨b, -, hq, rfl⟩ := h
    exact .release b hq rfl
  | cmAdv | crcRev24 | pbStat | acClear | prGet | prGetcv | lsFilter => exact .of_answer h rfl
  | cmI2f | whLoad | whRefl | crcFwd | crcFwdt | crcRev | prStop | prReseed | prSetaa | prSetcv | lsStop | lsUpdate
  | rtTake =>
    obtain ⟨-, ht⟩ := h
    exact .of_answer ht rfl
  | cmF2i =>
    obtain ⟨k, -, ht⟩ := h
    exact .of_answer ht rfl
  | cmHop | whXor | whXors | crcChk | prStart =>
    obtain ⟨-, -, ht⟩ := h
    exact .of_answer ht rfl
  | whStep | lsFollow =>
    obtain ⟨-, -, -, ht⟩ := h
    exact .of_answer ht rfl
  | pbPoll | pbRead =>
    obtain ⟨_, _, _, ht⟩ := h
    exact .of_answer ht rfl
  | acSee aa =>
    obtain ⟨-, ⟨-, ht⟩ | ⟨-, ht⟩⟩ := h
    · exact .of_answer ht (see_pool s aa)
    · exact .of_answer ht (see_pool s aa)
  | acScan ch data =>
    obtain ⟨-, -, -, ht⟩ := h
    exact .of_answer ht (scan_pool s ch data)
  | acGet =>
    obtain ⟨j, -, ⟨-, ht⟩ | ⟨-, ht⟩⟩ := h
    · exact .of_answer ht rfl
    · exact .of_answer ht rfl
  | prPkt =>
    obtain ⟨b, -, -, ht⟩ := h
    exact .of_answer ht (intake_pool s b)
  | tick now =>
    obtain ⟨-, ht⟩ | ⟨-, -, ht⟩ | ⟨-, u, events, hu, ht⟩ := h
    · exact .of_answer ht rfl
    · exact .of_answer ht rfl
    · have hlatched : u.pool = (s.latch now).pool := timeouts_pool hu
      exact .of_answer ht hlatched
  | prGetaa =>
    obtain ⟨-, ht⟩ | ⟨-, ht⟩ := h
    · exact .of_answer ht rfl
    · exact .of_answer ht rfl
  | prSetto =>
    obtain ⟨-, ht⟩ | ⟨-, ht⟩ | ⟨-, ht⟩ := h
    · exact .of_answer ht rfl
    · exact .of_answer ht rfl
    · exact .of_answer ht rfl
  | lsConnreq =>
    obtain ⟨-, -, -, ⟨-, ht⟩ | ⟨-, q, -, ht⟩⟩ := h
    · exact .of_answer ht rfl
    · exact .of_answer ht rfl
  | lsEvent =>
    obtain ⟨-, ⟨-, ht⟩ | ⟨-, ht⟩⟩ := h
    · exact .of_answer ht rfl
    · exact .of_answer ht rfl
  | lsCancel =>
    obtain ⟨-, ht⟩ | ⟨-, ht⟩ := h
    · exact .of_answer ht rfl
    · exact .of_answer ht (unlink_pool s)

theorem exec_poolMove {i : Instr} {s t : State} (h : exec i s = .next t) : PoolMove (opOf i) s t :=
  (exec_next h).elim (fun hf => .none hf.pool) Effect.poolMove

/-! ### What a step does -/

/-- The grant takes an entry of the schedule or a free choice, and nothing else (log 4). -/
theorem grant_frame {s t : State} {g : Agent} (h : s.grant = some (g, t)) :
    t = { s with arbPlan := t.arbPlan, arbSeq := t.arbSeq } := by
  unfold State.grant at h
  split at h
  · cases h
  · cases h
    rfl
  · cases h
    rfl
  · split at h
    · cases h
      rfl
    · cases h
      rfl

/-- A step does nothing, or serves the port it grants: an operation runs there, or `ILLEGAL` is the answer (R6, R108). -/
theorem step_served {s t : State} (h : step s = .next t) :
    t = s ∨ ∃ (g : Agent) (v : State) (rest : List Beat), s.grant = some (g, v) ∧
      ((∃ i, exec i (v.serving g rest) = .next t) ∨ t = (v.serving g rest).answer (errorResponse .illegal)) := by
  rcases hg : s.grant with _ | ⟨g, v⟩
  · rw [step_idle hg] at h
    cases h
    exact .inl rfl
  · right
    simp only [step, fetch, hg] at h
    cases hd : decode (v.port g).reqs with
    | instr i rest =>
      rw [hd] at h
      exact ⟨g, v, rest, rfl, .inl ⟨i, h⟩⟩
    | illegal why rest =>
      rw [hd] at h
      exact ⟨g, v, rest, rfl, .inr (raise_next.1 h)⟩
    | misframed why =>
      rw [hd] at h
      cases h

theorem serving_pool {s v : State} {g : Agent} (h : s.grant = some (g, v)) (rest : List Beat) :
    (v.serving g rest).pool = s.pool := by
  rw [grant_frame h]
  rfl

/-- What holds of a state by its pool, and what every move keeps, every step keeps. -/
theorem step_keeps_of_pool {P : State → Prop} (hpool : ∀ s t : State, t.pool = s.pool → P s → P t)
    (hmove : ∀ (op : Op) (s t : State), PoolMove op s t → P s → P t) {s t : State} (h : step s = .next t) (hs : P s) :
    P t := by
  obtain rfl | ⟨g, v, rest, hg, ⟨i, hi⟩ | rfl⟩ := step_served h
  · exact hs
  · exact hmove _ _ _ (exec_poolMove hi) (hpool _ _ (serving_pool hg rest) hs)
  · exact hpool _ _ (serving_pool hg rest) hs

end Sys2Proof.Machine
end

section
/-! PROOFS. The pool invariants after every step, and the arrows of a buffer's tag: both by the moves of `PoolMove` (R180, R191). -/

namespace Sys2Proof.Machine

/-! ### Appending bytes -/

theorem toNat_toHalf {n : Nat} (h : n < 65536) : (toHalf n).toNat = n := (BitVec.toNat_ofNat ..).trans (Nat.mod_eq_of_lt h)

section Append

variable {p : Buffer} {d : List Byte} {ps : Params}

theorem Buffer.append_len (hlen : p.len.toNat + d.length ≤ 263) : (p.append d).len.toNat = p.len.toNat + d.length :=
  toNat_toHalf (by omega)

theorem Buffer.append_read (hwf : p.data.wf = true) (a : Nat) : (p.append d).data.read a =
    if p.len.toNat ≤ a ∧ a < p.len.toNat + d.length then d.getD (a - p.len.toNat) 0 else p.data.read a :=
  Memory.read_writeAll hwf _ _ _

/-- A buffer's contents after a write are those before it and the bytes written (R183). -/
theorem Buffer.append_bytes (hwf : p.data.wf = true) (hlen : p.len.toNat + d.length ≤ 263) :
    (p.append d).bytes = p.bytes ++ d := by
  have hsum := p.append_len hlen
  refine List.ext_getElem (by simp [hsum]) fun i hi _ => ?_
  rw [Buffer.bytes_length, hsum] at hi
  rw [← List.getD_eq_getElem _ 0, ← List.getD_eq_getElem _ 0, Buffer.bytes_getD, hsum, if_pos hi, Buffer.append_read hwf]
  by_cases hold : i < p.len.toNat
  · rw [if_neg (by omega), List.getD_append _ _ _ _ (by simpa using hold), Buffer.bytes_getD, if_pos hold]
  · rw [if_pos ⟨by omega, hi⟩, List.getD_append_right _ _ _ _ (by simpa using hold), Buffer.bytes_length]

theorem overDeclared_false {body : List Byte} :
    overDeclared ps body = false ↔ (2 ≤ body.length → declared ps (body.getD 1 0) ≤ ps.maxPduLen) := by
  simp [overDeclared]

theorem overDeclared_true {body : List Byte} :
    overDeclared ps body = true ↔ 2 ≤ body.length ∧ ps.maxPduLen < declared ps (body.getD 1 0) := by
  simp [overDeclared]

/-- The declared length, once byte 1 is there, is the one of the contents (R185). -/
theorem Buffer.declaredLength_eq (h : 2 ≤ p.len.toNat) : p.declaredLength ps = declared ps (p.bytes.getD 1 0) := by
  rw [Buffer.bytes_getD, if_pos (by omega)]

end Append

/-! ### The pool invariant, buffer by buffer -/

/-- What R191 says of one buffer, and what it needs of a buffer still capturing and of the memory's form. -/
structure Buffer.Wf (ps : Params) (p : Buffer) : Prop where
  len : p.len.toNat ≤ 263
  queued : p.tag = .queued → p.len.toNat = 2 + p.declaredLength ps + 3 ∧ p.declaredLength ps ≤ ps.maxPduLen
  capturing : p.tag = .capturing → 2 ≤ p.len.toNat → p.declaredLength ps ≤ ps.maxPduLen
  memory : p.MemoryWf

/-- What R191 says of the tags and the queue. -/
structure State.TagsWf (s : State) : Prop where
  single : ∀ a b : Fin 4, s.pb[a].tag = .capturing → s.pb[b].tag = .capturing → a = b
  nodup : s.pbq.Nodup
  mem : ∀ b : Fin 4, b ∈ s.pbq ↔ s.pb[b].tag = .queued

theorem poolWf_iff {s : State} : s.PoolWf ↔ s.TagsWf ∧ ∀ b : Fin 4, s.pb[b].Wf s.params := by
  constructor
  · rintro ⟨single, nodup, mem, len, queued, capturing, memory⟩
    exact ⟨⟨single, nodup, mem⟩, fun b => ⟨len b, queued b, capturing b, memory b⟩⟩
  · rintro ⟨⟨single, nodup, mem⟩, hbuf⟩
    exact ⟨single, nodup, mem, fun b => (hbuf b).len, fun b => (hbuf b).queued, fun b => (hbuf b).capturing,
      fun b => (hbuf b).memory⟩

theorem Buffer.wf_of_poolWf {s : State} (hs : s.PoolWf) (b : Fin 4) : s.pb[b].Wf s.params := by
  obtain ⟨-, hbuf⟩ := poolWf_iff.1 hs
  exact hbuf b

theorem poolWf_of_pool {s t : State} (h : t.pool = s.pool) (hs : s.PoolWf) : t.PoolWf := by
  cases s
  cases t
  cases h
  exact hs

/-! ### One buffer after a move -/

section Buffers

variable {p : Buffer} {ps : Params}

theorem Buffer.Wf.acquired (hp : p.Wf ps) : p.acquired.Wf ps where
  len := Nat.zero_le _
  queued := nofun
  capturing _ h := absurd h (by simp [Buffer.acquired])
  memory := hp.memory

theorem Buffer.Wf.append {d : List Byte} (hp : p.Wf ps) (hcap : p.tag = .capturing) (hlen : p.len.toNat + d.length ≤ 263)
    (hdecl : overDeclared ps (p.bytes ++ d) = false) : (p.append d).Wf ps where
  len := (p.append_len hlen).trans_le hlen
  queued hq := absurd (hcap.symm.trans hq) (by decide)
  capturing _ h2 := by
    rw [← Buffer.append_bytes hp.memory.1 hlen, overDeclared_false, Buffer.bytes_length] at hdecl
    rw [Buffer.declaredLength_eq h2]
    exact hdecl h2
  memory := by
    refine ⟨Memory.writeAll_wf hp.memory.1 _ _, fun c hc => ?_⟩
    rcases Memory.mem_writeAll hc with ⟨-, hnew⟩ | hold
    · exact hnew.trans_le hlen
    · exact hp.memory.2 c hold

theorem Buffer.Wf.sample (hp : p.Wf ps) (x : Byte) : (p.sample x).Wf ps := ⟨hp.len, hp.queued, hp.capturing, hp.memory⟩

theorem Buffer.whole_iff : p.whole ps = true ↔ 5 ≤ p.len.toNat ∧ p.len.toNat = 2 + p.declaredLength ps + 3 := by
  simp [Buffer.whole]

theorem Buffer.Wf.commit {chan : Byte} {ts : Ts} {aa : Word} (hp : p.Wf ps) (hcap : p.tag = .capturing)
    (hwhole : p.whole ps = true) : Buffer.Wf ps { p with chan := chan, ts := ts, aa := aa, tag := .queued } where
  len := hp.len
  queued _ := ⟨(Buffer.whole_iff.1 hwhole).2, hp.capturing hcap (Nat.le_trans (by decide) (Buffer.whole_iff.1 hwhole).1)⟩
  capturing := nofun
  memory := hp.memory

theorem Buffer.Wf.free (hp : p.Wf ps) : Buffer.Wf ps { p with tag := .free } where
  len := hp.len
  queued := nofun
  capturing := nofun
  memory := hp.memory

end Buffers

/-! ### The pool after a move -/

section Moves

variable {s t : State} {b : Fin 4} {p : Buffer}

theorem State.setBuf_pb_get (s : State) (b : Fin 4) (p : Buffer) (a : Fin 4) :
    (s.setBuf b p).pb[a] = if a = b then p else s.pb[a] := by
  simp [Vector.getElem_set, Fin.ext_iff, eq_comm]

/-- Buffer `b` replaced and the queue with it: the queue must hold `b` exactly when it is now `QUEUED` (R191). -/
theorem poolWf_setBuf {q : List (Fin 4)} (hs : s.PoolWf) (hp : p.Wf s.params)
    (hcap : p.tag = .capturing → ∀ a : Fin 4, s.pb[a].tag = .capturing → a = b) (hq : q.Nodup)
    (hmem : ∀ a : Fin 4, a ∈ q ↔ if a = b then p.tag = .queued else a ∈ s.pbq)
    (h : t.pool = { (s.setBuf b p).pool with pbq := q }) : t.PoolWf := by
  obtain ⟨tags, hbuf⟩ := poolWf_iff.1 hs
  have hget (a : Fin 4) : { s.setBuf b p with pbq := q }.pb[a] = if a = b then p else s.pb[a] := s.setBuf_pb_get b p a
  refine poolWf_of_pool (s := { s.setBuf b p with pbq := q }) h
    (poolWf_iff.2 ⟨⟨fun a c ha hc => ?_, hq, fun a => ?_⟩, fun a => ?_⟩)
  · rw [hget] at ha hc
    split at ha <;> split at hc
    · next hab hcb => exact hab.trans hcb.symm
    · next hab _ => exact hab.trans (hcap ha c hc).symm
    · next _ hcb => exact (hcap hc a ha).trans hcb.symm
    · exact tags.single a c ha hc
  · rw [hget, hmem]
    split
    · exact Iff.rfl
    · exact tags.mem a
  · rw [hget]
    split
    · exact hp
    · exact hbuf a

/-- Buffer `b` replaced, `QUEUED` or not as before, and the queue left alone. -/
theorem poolWf_setBuf_queue (hs : s.PoolWf) (hp : p.Wf s.params)
    (hcap : p.tag = .capturing → ∀ a : Fin 4, s.pb[a].tag = .capturing → a = b)
    (htag : p.tag = .queued ↔ s.pb[b].tag = .queued) (h : t.pool = (s.setBuf b p).pool) : t.PoolWf := by
  obtain ⟨tags, -⟩ := poolWf_iff.1 hs
  refine poolWf_setBuf hs hp hcap tags.nodup (fun a => ?_) h
  split
  · next hab => rw [hab, tags.mem, htag]
  · exact Iff.rfl

/-- Every move keeps the pool invariants (R191). -/
theorem PoolMove.poolWf {op : Op} (h : PoolMove op s t) (hs : s.PoolWf) : t.PoolWf := by
  obtain ⟨tags, hbuf⟩ := poolWf_iff.1 hs
  cases h with
  | none h => exact poolWf_of_pool h hs
  | acquire b hnone hfree h =>
    exact poolWf_setBuf_queue hs (hbuf b).acquired (fun _ a ha => absurd ha (hnone a)) (iff_of_false nofun (hfree.trans_ne nofun)) h
  | append b hcap hlen hdecl h =>
    exact poolWf_setBuf_queue hs ((hbuf b).append hcap hlen hdecl) (fun _ a ha => tags.single a b ha hcap) Iff.rfl h
  | sample b x hcap h =>
    exact poolWf_setBuf_queue hs ((hbuf b).sample x) (fun _ a ha => tags.single a b ha hcap) Iff.rfl h
  | commit b hcap hwhole h =>
    have hout : b ∉ s.pbq := by
      rw [tags.mem, hcap]
      nofun
    refine poolWf_setBuf hs ((hbuf b).commit hcap hwhole) nofun ?_ (fun a => ?_) h
    · simpa using tags.nodup.concat hout
    · by_cases hab : a = b <;> simp [hab]
  | drop b _ hcap _ h =>
    exact poolWf_setBuf_queue hs (hbuf b).free nofun (iff_of_false nofun (hcap.trans_ne nofun)) h
  | release b hq h =>
    refine poolWf_setBuf hs (hbuf b).free nofun (tags.nodup.filter _) (fun a => ?_) h
    by_cases hab : a = b <;> simp [hab]

end Moves

/-- Settles O9: the moves keep the invariants, so every step does. -/
theorem poolInvariantKept : Obligations.PoolInvariantKept :=
  ⟨reset_poolWf,
    fun _ _ hs h => step_keeps_of_pool (P := State.PoolWf) (fun _ _ => poolWf_of_pool) (fun _ _ _ => PoolMove.poolWf) h hs,
    fun s => s.pb.length_toList⟩

/-! ### The arrows of R180 -/

/-- A move of one buffer changes no tag but that buffer's. -/
theorem moved_tag {s t : State} {a b : Fin 4} {p : Buffer} {q : List (Fin 4)}
    (h : t.pool = { (s.setBuf b p).pool with pbq := q }) (hne : s.pb[a].tag ≠ t.pb[a].tag) : a = b ∧ t.pb[a].tag = p.tag := by
  have hpb : t.pb = (s.setBuf b p).pb := congrArg Pool.pb h
  have hget : t.pb[a] = if a = b then p else s.pb[a] := by rw [hpb, State.setBuf_pb_get]
  split at hget
  · next hab => exact ⟨hab, congrArg Buffer.tag hget⟩
  · exact absurd (congrArg Buffer.tag hget).symm hne

/-- A tag that moves goes along an arrow of R180 by its operation, and from `CAPTURING` to `FREE` with `MALFORMED` but for
`PB_ABORT`. -/
theorem PoolMove.arrow {op : Op} {s t : State} {a : Fin 4} (h : PoolMove op s t) (hne : s.pb[a].tag ≠ t.pb[a].tag) :
    op ∈ tagMoves s.pb[a].tag t.pb[a].tag ∧
      (s.pb[a].tag = .capturing → t.pb[a].tag = .free → op ≠ .pbAbort →
        t.lastOn s.agent = some (errorResponse .malformed)) := by
  cases h with
  | none h =>
    have hpb : t.pb = s.pb := congrArg Pool.pb h
    exact absurd (by rw [hpb]) hne
  | acquire b _ hfree h =>
    obtain ⟨rfl, (htag : _ = Tag.capturing)⟩ := moved_tag h hne
    rw [hfree, htag]
    exact ⟨by decide, nofun⟩
  | append b _ _ _ h =>
    obtain ⟨rfl, htag⟩ := moved_tag h hne
    exact absurd htag.symm hne
  | sample b x _ h =>
    obtain ⟨rfl, htag⟩ := moved_tag h hne
    exact absurd htag.symm hne
  | commit b hcap _ h =>
    obtain ⟨rfl, (htag : _ = Tag.queued)⟩ := moved_tag h hne
    rw [hcap, htag]
    exact ⟨by decide, nofun⟩
  | drop b hop hcap hmal h =>
    obtain ⟨rfl, (htag : _ = Tag.free)⟩ := moved_tag h hne
    rw [hcap, htag]
    exact ⟨hop, fun _ _ => hmal⟩
  | release b hq h =>
    obtain ⟨rfl, (htag : _ = Tag.free)⟩ := moved_tag h hne
    rw [hq, htag]
    exact ⟨by decide, nofun⟩

/-- Settles O36: what an operation does to a tag is one of the moves. -/
theorem bufferLifeArrows : Obligations.BufferLifeArrows := by
  intro i s t b h hne
  obtain ⟨harrow, hmal⟩ := (exec_poolMove h).arrow hne
  exact ⟨harrow, fun hcap hfree habort => ⟨_, hmal hcap hfree habort, rfl⟩⟩

end Sys2Proof.Machine
end

section
/-! PROOFS. What each operation of the Packet Buffer Pool answers and writes: one equation per outcome (R182 to R190). -/

namespace Sys2Proof.Machine

/-! ### Rights -/

theorem served_cap {op : Op} {s : State} {k : Result} (h : rights op = .capOnly) (hag : s.agent = .cap) : served op s k = k :=
  served_of_allowed (by rw [h, hag]; rfl)

theorem served_proc {op : Op} {s : State} {k : Result} (h : rights op = .procOnly) (hag : s.agent = .proc) : served op s k = k :=
  served_of_allowed (by rw [h, hag]; rfl)

section Answers

variable {s : State} {b : Fin 4}

/-! ### `PB_ACQ` and `PB_RSSI` -/

theorem exec_pbAcq_capturing (hag : s.agent = .cap) (hb : s.pb[b].tag = .capturing) :
    exec .pbAcq s = .next (s.answer (errorResponse .badState)) := by
  have hrun : exec .pbAcq s = execPbAcq s := rfl
  obtain ⟨c, hc⟩ : ∃ c, s.capturing = some c :=
    Option.ne_none_iff_exists'.1 fun h => capturing_none.1 h b hb
  rw [hrun, execPbAcq, served_cap rfl hag, hc]
  rfl

theorem exec_pbAcq_exhausted (hag : s.agent = .cap) (hcap : s.NoneCapturing) (hfree : ∀ a : Fin 4, s.pb[a].tag ≠ .free) :
    exec .pbAcq s = .next (State.answer { s with discards := satSucc s.discards } (errorResponse .noBuf)) := by
  have hrun : exec .pbAcq s = execPbAcq s := rfl
  rw [hrun, execPbAcq, served_cap rfl hag, capturing_none.2 hcap, findTag_none.2 hfree]
  rfl

theorem exec_pbAcq_free (hag : s.agent = .cap) (hcap : s.NoneCapturing) (hb : s.findTag .free = some b) :
    exec .pbAcq s = .next ((s.setBuf b s.pb[b].acquired).answer { ra := toByte b.val }) := by
  have hrun : exec .pbAcq s = execPbAcq s := rfl
  rw [hrun, execPbAcq, served_cap rfl hag, capturing_none.2 hcap, hb]
  rfl

theorem exec_pbRssi_none {x : Byte} (hag : s.agent = .cap) (hcap : s.NoneCapturing) :
    exec (.pbRssi x) s = .next (s.answer (errorResponse .badTag)) := by
  have hrun : exec (.pbRssi x) s = execPbRssi x s := rfl
  rw [hrun, execPbRssi, served_cap rfl hag, capturing_none.2 hcap]
  rfl

theorem exec_pbRssi {x : Byte} (hag : s.agent = .cap) (hb : s.CapturingAt b) :
    exec (.pbRssi x) s = .next ((s.setBuf b (s.pb[b].sample x)).answer {}) := by
  have hrun : exec (.pbRssi x) s = execPbRssi x s := rfl
  rw [hrun, execPbRssi, served_cap rfl hag, capturing_some.2 hb]
  rfl

theorem minSigned_eq (a b : Byte) : minSigned a b = BitVec.ofInt 8 (min a.toInt b.toInt) := by
  unfold minSigned
  split
  · next h => rw [min_eq_left h, BitVec.ofInt_toInt]
  · next h => rw [min_eq_right (le_of_not_ge h), BitVec.ofInt_toInt]

theorem maxSigned_eq (a b : Byte) : maxSigned a b = BitVec.ofInt 8 (max a.toInt b.toInt) := by
  unfold maxSigned
  split
  · next h => rw [max_eq_right h, BitVec.ofInt_toInt]
  · next h => rw [max_eq_left (le_of_not_ge h), BitVec.ofInt_toInt]

theorem Buffer.sample_eq (p : Buffer) (x : Byte) : p.sample x =
    { p with
      rssiMin := BitVec.ofInt 8 (min p.rssiMin.toInt x.toInt)
      rssiMax := BitVec.ofInt 8 (max p.rssiMax.toInt x.toInt)
      rssiSum := BitVec.ofInt 32 (max (-2 ^ 31) (min (p.rssiSum.toInt + x.toInt) (2 ^ 31 - 1))) } := by
  rw [Buffer.sample, minSigned_eq, maxSigned_eq]
  rfl

/-! ### `PB_WRITE` -/

theorem exec_pbWrite_tooLong {data : List Byte} (hag : s.agent = .cap) (hlen : 263 < data.length) :
    exec (.pbWrite data) s = .next (s.answer (errorResponse .range)) := by
  have hrun : exec (.pbWrite data) s = execPbWrite data s := rfl
  rw [hrun, execPbWrite, served_cap rfl hag, if_pos (tooLong_true.2 hlen)]
  rfl

theorem exec_pbWrite_none {data : List Byte} (hag : s.agent = .cap) (hlen : data.length ≤ 263) (hcap : s.NoneCapturing) :
    exec (.pbWrite data) s = .next (s.answer (errorResponse .badTag)) := by
  have hrun : exec (.pbWrite data) s = execPbWrite data s := rfl
  rw [hrun, execPbWrite, served_cap rfl hag, if_neg (by rw [tooLong_false.2 hlen]; decide), capturing_none.2 hcap]
  rfl

/-- `PB_WRITE` on the capturing buffer: the two checks of R183 in their order, then the bytes. -/
theorem exec_pbWrite {data : List Byte} (hag : s.agent = .cap) (hlen : data.length ≤ 263) (hb : s.CapturingAt b) :
    exec (.pbWrite data) s =
      if 263 < s.pb[b].len.toNat + data.length then dropMalformed s b
      else if overDeclared s.params (s.pb[b].bytes ++ data) then dropMalformed s b
      else reply (s.setBuf b (s.pb[b].append data)) { rb := toHalf (s.pb[b].len.toNat + data.length) } := by
  have hrun : exec (.pbWrite data) s = execPbWrite data s := rfl
  rw [hrun, execPbWrite, served_cap rfl hag, if_neg (by rw [tooLong_false.2 hlen]; decide), capturing_some.2 hb]

theorem exec_pbWrite_malformed {data : List Byte} (hag : s.agent = .cap) (hlen : data.length ≤ 263) (hb : s.CapturingAt b)
    (hbad : 263 < s.pb[b].len.toNat + data.length ∨ overDeclared s.params (s.pb[b].bytes ++ data) = true) :
    exec (.pbWrite data) s = dropMalformed s b := by
  rw [exec_pbWrite hag hlen hb]
  rcases hbad with hfull | hdecl
  · rw [if_pos hfull]
  · rw [if_pos hdecl, ite_self]

theorem exec_pbWrite_append {data : List Byte} (hag : s.agent = .cap) (hb : s.CapturingAt b)
    (hfit : s.pb[b].len.toNat + data.length ≤ 263) (hdecl : overDeclared s.params (s.pb[b].bytes ++ data) = false) :
    exec (.pbWrite data) s = .next ((s.setBuf b (s.pb[b].append data)).answer
      { rb := toHalf (s.pb[b].len.toNat + data.length) }) := by
  rw [exec_pbWrite hag (by omega) hb, if_neg (Nat.not_lt.2 hfit), if_neg (by rw [hdecl]; decide)]
  rfl

/-! ### `PB_COMMIT` and `PB_ABORT` -/

theorem exec_pbCommit_range {chan : Byte} {ts : Ts} {aa : Word} (hag : s.agent = .cap) (hch : 39 < chan.toNat) :
    exec (.pbCommit chan ts aa) s = .next (s.answer (errorResponse .range)) := by
  have hrun : exec (.pbCommit chan ts aa) s = execPbCommit chan ts aa s := rfl
  rw [hrun, execPbCommit, served_cap rfl hag, if_pos (badChan_true.2 hch)]
  rfl

theorem exec_pbCommit_none {chan : Byte} {ts : Ts} {aa : Word} (hag : s.agent = .cap) (hch : chan.toNat ≤ 39)
    (hcap : s.NoneCapturing) : exec (.pbCommit chan ts aa) s = .next (s.answer (errorResponse .badTag)) := by
  have hrun : exec (.pbCommit chan ts aa) s = execPbCommit chan ts aa s := rfl
  rw [hrun, execPbCommit, served_cap rfl hag, if_neg (by rw [badChan_false.2 hch]; decide), capturing_none.2 hcap]
  rfl

/-- `PB_COMMIT` on the capturing buffer queues a whole packet and drops any other (R185). -/
theorem exec_pbCommit {chan : Byte} {ts : Ts} {aa : Word} (hag : s.agent = .cap) (hch : chan.toNat ≤ 39)
    (hb : s.CapturingAt b) : exec (.pbCommit chan ts aa) s =
      if s.pb[b].whole s.params then
        reply { s.setBuf b { s.pb[b] with chan := chan, ts := ts, aa := aa, tag := .queued } with pbq := s.pbq ++ [b] }
          { ra := toByte b.val }
      else dropMalformed s b := by
  have hrun : exec (.pbCommit chan ts aa) s = execPbCommit chan ts aa s := rfl
  rw [hrun, execPbCommit, served_cap rfl hag, if_neg (by rw [badChan_false.2 hch]; decide), capturing_some.2 hb]

theorem exec_pbAbort_none (hag : s.agent = .cap) (hcap : s.NoneCapturing) :
    exec .pbAbort s = .next (s.answer (errorResponse .badTag)) := by
  have hrun : exec .pbAbort s = execPbAbort s := rfl
  rw [hrun, execPbAbort, served_cap rfl hag, capturing_none.2 hcap]
  rfl

theorem exec_pbAbort (hag : s.agent = .cap) (hb : s.CapturingAt b) :
    exec .pbAbort s = .next ((s.setTag b .free).answer {}) := by
  have hrun : exec .pbAbort s = execPbAbort s := rfl
  rw [hrun, execPbAbort, served_cap rfl hag, capturing_some.2 hb]
  rfl

/-! ### The readers and `PB_REL` -/

theorem exec_pbPoll_empty (hag : s.agent = .proc) (hq : s.pbq = []) :
    exec .pbPoll s = .next (s.answer (errorResponse .empty)) := by
  have hrun : exec .pbPoll s = execPbPoll s := rfl
  rw [hrun, execPbPoll, served_proc rfl hag, hq]
  rfl

theorem exec_pbPoll {q : List (Fin 4)} (hag : s.agent = .proc) (hq : s.pbq = b :: q) :
    exec .pbPoll s = .next (s.answer { ra := toByte b.val }) := by
  have hrun : exec .pbPoll s = execPbPoll s := rfl
  rw [hrun, execPbPoll, served_proc rfl hag, hq]
  rfl

section Indexed

variable {buf : Byte}

theorem exec_pbRead_range (hag : s.agent = .proc) (hbuf : 3 < buf.toNat) :
    exec (.pbRead buf) s = .next (s.answer (errorResponse .range)) := by
  have hrun : exec (.pbRead buf) s = execPbRead buf s := rfl
  rw [hrun, execPbRead, served_proc rfl hag, bufIndex_none.2 hbuf]
  rfl

/-- `PB_READ` of a buffer in the domain reads a `QUEUED` one and no other (R188). -/
theorem exec_pbRead (hag : s.agent = .proc) (hbuf : buf.toNat = b.val) : exec (.pbRead buf) s =
    if s.pb[b].tag = .queued then .next (s.answer s.pb[b].report) else .next (s.answer (errorResponse .badTag)) := by
  have hrun : exec (.pbRead buf) s = execPbRead buf s := rfl
  rw [hrun, execPbRead, served_proc rfl hag, bufIndex_some.2 hbuf]
  rfl

theorem exec_pbRel_range (hbuf : 3 < buf.toNat) : exec (.pbRel buf) s = .next (s.answer (errorResponse .range)) :=
  exec_outOfDomain (i := .pbRel buf) rfl hbuf

/-- `PB_REL` of a buffer in the domain frees a `QUEUED` one and no other (R189). -/
theorem exec_pbRel (hbuf : buf.toNat = b.val) : exec (.pbRel buf) s =
    if s.pb[b].tag = .queued then
      .next (State.answer { s.setTag b .free with pbq := s.pbq.filter fun x => x != b } {})
    else .next (s.answer (errorResponse .badTag)) := by
  have hrun : exec (.pbRel buf) s = execPbRel buf s := rfl
  rw [hrun, execPbRel, served_both rfl, bufIndex_some.2 hbuf]
  rfl

end Indexed

theorem Tag.code_lt (t : Tag) : t.code < 4 := by
  cases t <;> decide

/-- Four 2-bit fields side by side, the first lowest. -/
theorem packFields_eq : ∀ c0 c1 c2 c3 : Fin 4, toByte (c0.val + 4 * c1.val + 16 * c2.val + 64 * c3.val) =
    BitVec.ofNat 2 c3.val ++ (BitVec.ofNat 2 c2.val ++ (BitVec.ofNat 2 c1.val ++ BitVec.ofNat 2 c0.val)) := by
  decide

/-- The tag of buffer 3 in the two highest bits, that of buffer 0 in the two lowest (R190). -/
theorem tagByte_eq (t0 t1 t2 t3 : Tag) : tagByte t0 t1 t2 t3 =
    BitVec.ofNat 2 t3.code ++ (BitVec.ofNat 2 t2.code ++ (BitVec.ofNat 2 t1.code ++ BitVec.ofNat 2 t0.code)) :=
  packFields_eq ⟨_, t0.code_lt⟩ ⟨_, t1.code_lt⟩ ⟨_, t2.code_lt⟩ ⟨_, t3.code_lt⟩

theorem exec_pbStat : exec .pbStat s = .next (s.answer
    { ra := tagByte s.pb[0].tag s.pb[1].tag s.pb[2].tag s.pb[3].tag, rb := toHalf s.pbq.length, words := [s.discards] }) :=
  served_both (s := s) (op := .pbStat) rfl

end Answers

/-! ### The obligations -/

/-- Settles O31: one lemma for each outcome. -/
theorem pbAcqAndRssiResult : Obligations.PbAcqAndRssiResult := by
  refine ⟨fun s b => exec_pbAcq_capturing, fun s => exec_pbAcq_exhausted, fun s b hag hcap hb hlow => ?_,
    fun x s => exec_pbRssi_none, fun x s b hag hb => ?_⟩
  · exact exec_pbAcq_free hag hcap (findTag_some.2 ⟨hb, hlow⟩)
  · rw [exec_pbRssi hag hb, Buffer.sample_eq]
    rfl

/-- Settles O32: the checks of R183 in their order; the bytes are those of `Buffer.append`. -/
theorem pbWriteResult : Obligations.PbWriteResult := by
  refine ⟨fun data s => exec_pbWrite_tooLong, fun data s => exec_pbWrite_none, fun data s b hag hlen hb hbad => ?_,
    fun data s b hag hwf hb hfit hdecl => ?_⟩
  · refine exec_pbWrite_malformed hag hlen hb (hbad.imp_right fun hover => overDeclared_true.2 ?_)
    simpa [declared] using hover
  · have hover : overDeclared s.params (s.pb[b].bytes ++ data) = false :=
      overDeclared_false.2 fun h2 => hdecl (by simpa using h2)
    exact ⟨(s.pb[b].append data).data, exec_pbWrite_append hag hb hfit hover, Memory.writeAll_wf hwf _ _,
      Buffer.append_read hwf⟩

/-- Settles O33: a packet is whole when it has the length it declares, and at least 5 bytes (`Buffer.whole_iff`). -/
theorem pbCommitAndAbortResult : Obligations.PbCommitAndAbortResult := by
  refine ⟨fun chan ts aa s => exec_pbCommit_range, fun chan ts aa s => exec_pbCommit_none,
    fun chan ts aa s b hag hch hb => ⟨fun hbad => ?_, fun h5 hlen => ?_⟩, fun s => exec_pbAbort_none, fun s b => exec_pbAbort⟩
  · have hpart : ¬s.pb[b].whole s.params = true := by
      rw [Buffer.whole_iff, not_and_or, not_le]
      exact hbad
    rw [exec_pbCommit hag hch hb, if_neg hpart]
    rfl
  · rw [exec_pbCommit hag hch hb, if_pos (Buffer.whole_iff.2 ⟨h5, hlen⟩)]
    rfl

/-- Settles O34: one lemma for each outcome; the bytes `PB_READ` returns are the buffer's contents. -/
theorem pbReadersAndRelResult : Obligations.PbReadersAndRelResult := by
  refine ⟨fun s => exec_pbPoll_empty, fun s b q => exec_pbPoll,
    fun buf s hbuf => ⟨fun hag => exec_pbRead_range hag hbuf, exec_pbRel_range hbuf⟩,
    fun buf s b hbuf hq => ⟨fun hag => ?_, ?_⟩, fun buf s b hbuf hq hag => ?_,
    fun buf s b hbuf hq => ?_, fun s => ?_⟩
  · rw [exec_pbRead hag hbuf, if_neg hq]
  · rw [exec_pbRel hbuf, if_neg hq]
  · refine ⟨s.pb[b].bytes, ?_, s.pb[b].bytes_length, fun k hk => ?_⟩
    · rw [exec_pbRead hag hbuf, if_pos hq]
      rfl
    · rw [Buffer.bytes_getD, if_pos hk]
  · rw [exec_pbRel hbuf, if_pos hq]
    simp only [ne_eq, decide_not]
    rfl
  · rw [← tagByte_eq]
    exact exec_pbStat

end Sys2Proof.Machine
end

section
/-! PROOFS. A packet captured is the packet read back (R182, R183, R185, R188): `Collecting` says what a capture has gathered so
far; `PB_ACQ` starts it with nothing, each `PB_WRITE` adds its bytes, and `PB_COMMIT` queues what is there. -/

namespace Sys2Proof.Machine

/-! ### A capture under way -/

theorem State.setBuf_pb_same (s : State) (b : Fin 4) (p : Buffer) : (s.setBuf b p).pb[b] = p := by
  rw [State.setBuf_pb_get, if_pos rfl]

theorem State.setBuf_pb_other (s : State) {a b : Fin 4} (p : Buffer) (h : a ≠ b) : (s.setBuf b p).pb[a] = s.pb[a] := by
  rw [State.setBuf_pb_get, if_neg h]

/-- Since state `s`, buffer `b` is being captured into and holds the bytes `d`; the rest of the pool is as in `s`. -/
structure Collecting (s : State) (b : Fin 4) (d : List Byte) (t : State) : Prop where
  pbq : t.pbq = s.pbq
  params : t.params = s.params
  others : ∀ a : Fin 4, a ≠ b → t.pb[a] = s.pb[a]
  tag : t.pb[b].tag = .capturing
  bytes : t.pb[b].bytes = d
  memory : t.pb[b].data.wf = true

theorem overDeclared_of_append {ps : Params} {d d' : List Byte} (h : overDeclared ps (d ++ d') = false) :
    overDeclared ps d = false := by
  rw [overDeclared_false] at h ⊢
  intro h2
  rw [← List.getD_append d d' 0 1 h2]
  exact h (by rw [List.length_append]; omega)

section Capture

variable {s t : State} {b : Fin 4} {d : List Byte}

theorem Collecting.len (h : Collecting s b d t) : t.pb[b].len.toNat = d.length := by
  rw [← h.bytes, Buffer.bytes_length]

theorem Collecting.capturingAt (h : Collecting s b d t) (hnone : s.NoneCapturing) : t.CapturingAt b := by
  refine ⟨h.tag, fun a ha => ?_⟩
  rw [h.others a ha.ne]
  exact hnone a

/-- `PB_ACQ` starts a capture with no bytes in a buffer that was free (R182). -/
theorem issued_pbAcq (hs : s.PoolWf) (hnone : s.NoneCapturing) (hfree : s.findTag .free = some b) :
    ∃ t, issued .cap .pbAcq s = .next t ∧ t.lastOn .cap = some { ra := toByte b.val } ∧ Collecting s b [] t := by
  have hbuf := (s.as .cap).setBuf_pb_same b s.pb[b].acquired
  refine ⟨_, exec_pbAcq_free (s := s.as .cap) rfl hnone hfree, State.lastOn_answer rfl _, rfl, rfl, fun a ha => ?_, ?_,
    ?_, ?_⟩
  · exact (s.as .cap).setBuf_pb_other _ ha
  · exact congrArg Buffer.tag hbuf
  · exact congrArg Buffer.bytes hbuf
  · exact (congrArg (fun p => Memory.wf p.data) hbuf).trans (Buffer.wf_of_poolWf hs b).memory.1

/-- `PB_WRITE` adds its bytes to the capture (R183). -/
theorem Collecting.pbWrite {d' : List Byte} (h : Collecting s b d t) (hnone : s.NoneCapturing)
    (hfit : (d ++ d').length ≤ 263) (hdecl : overDeclared s.params (d ++ d') = false) :
    ∃ u, issued .cap (.pbWrite d') t = .next u ∧ Collecting s b (d ++ d') u := by
  have hroom : t.pb[b].len.toNat + d'.length ≤ 263 := by rwa [h.len, ← List.length_append]
  have hover : overDeclared t.params (t.pb[b].bytes ++ d') = false := by rwa [h.bytes, h.params]
  have hbuf := (t.as .cap).setBuf_pb_same b (t.pb[b].append d')
  refine ⟨_, exec_pbWrite_append (s := t.as .cap) rfl (h.capturingAt hnone) hroom hover, h.pbq, h.params, fun a ha => ?_, ?_,
    ?_, ?_⟩
  · exact ((t.as .cap).setBuf_pb_other _ ha).trans (h.others a ha)
  · exact (congrArg Buffer.tag hbuf).trans h.tag
  · rw [← h.bytes]
    exact (congrArg Buffer.bytes hbuf).trans (Buffer.append_bytes h.memory hroom)
  · exact (congrArg (fun p => Memory.wf p.data) hbuf).trans (Memory.writeAll_wf h.memory _ _)

/-- `PB_COMMIT` queues a capture that is a whole packet, last in the queue (R185). -/
theorem Collecting.pbCommit {chan : Byte} {ts : Ts} {aa : Word} (h : Collecting s b d t) (hnone : s.NoneCapturing)
    (hch : chan.toNat ≤ 39) (h5 : 5 ≤ d.length) (hlen : d.length = 2 + declared s.params (d.getD 1 0) + 3) :
    ∃ u, issued .cap (.pbCommit chan ts aa) t = .next u ∧ u.pbq = s.pbq ++ [b] ∧ (∀ a : Fin 4, a ≠ b → u.pb[a] = s.pb[a]) ∧
      u.pb[b] = { t.pb[b] with chan := chan, ts := ts, aa := aa, tag := .queued } := by
  have hwhole : t.pb[b].whole t.params = true := by
    rw [Buffer.whole_iff, Buffer.declaredLength_eq (by rw [h.len]; omega), h.len, h.bytes, h.params]
    exact ⟨h5, hlen⟩
  refine ⟨_, (exec_pbCommit (s := t.as .cap) rfl hch (h.capturingAt hnone)).trans (if_pos hwhole),
    congrArg (· ++ [b]) h.pbq, fun a ha => ?_, (t.as .cap).setBuf_pb_same b _⟩
  exact ((t.as .cap).setBuf_pb_other _ ha).trans (h.others a ha)

theorem issued_pbRead (hq : t.pb[b].tag = .queued) :
    issued .proc (.pbRead (toByte b.val)) t = .next ((t.as .proc).answer t.pb[b].report) := by
  have hindex : (toByte b.val).toNat = b.val := (BitVec.toNat_ofNat ..).trans (Nat.mod_eq_of_lt (by omega))
  exact (exec_pbRead (s := t.as .proc) rfl hindex).trans (if_pos hq)

theorem extractLsb'_rssiWord (chan rssiMin rssiMax : Byte) : (rssiWord chan rssiMin rssiMax).extractLsb' 0 8 = chan := by
  unfold rssiWord
  rw [BitVec.extractLsb'_append_eq_of_add_le (by decide), BitVec.extractLsb'_append_eq_of_add_le (by decide)]
  exact BitVec.extractLsb'_append_eq_right

end Capture

/-- Settles O35: the capture step by step (`Collecting`), then the report of the queued buffer. -/
theorem captureReadsBack : Obligations.CaptureReadsBack := by
  intro s d1 d2 chan ts aa hs hnone ⟨c, hc⟩ hch h5 hfit hlen hdecl
  obtain ⟨b, hb⟩ : ∃ b, s.findTag .free = some b := Option.ne_none_iff_exists'.1 fun h => findTag_none.1 h c hc
  have hfree : s.pb[b].tag = .free := (findTag_some.1 hb).1
  have hwhole : overDeclared s.params (d1 ++ d2) = false := overDeclared_false.2 fun _ => hdecl
  have hfit1 : d1.length ≤ 263 := by
    rw [List.length_append] at hfit
    omega
  obtain ⟨t1, hacq, hra, started⟩ := issued_pbAcq hs hnone hb
  obtain ⟨t2, hw1, first⟩ := started.pbWrite (d' := d1) hnone hfit1 (overDeclared_of_append hwhole)
  obtain ⟨t3, hw2, both⟩ := first.pbWrite (d' := d2) hnone hfit hwhole
  obtain ⟨t4, hcommit, hpbq, hothers, hbuf⟩ := both.pbCommit (ts := ts) (aa := aa) hnone hch h5 hlen
  have hread := issued_pbRead (t := t4) (b := b) (congrArg Buffer.tag hbuf)
  rw [hbuf] at hread
  refine ⟨b, t1, t2, t3, t4, _, _, hacq, hra, hw1, hw2, hcommit, hpbq, fun a ha => ?_, hread, State.lastOn_answer rfl _, rfl,
    both.bytes, both.len, rfl, rfl, extractLsb'_rssiWord ..⟩
  refine hothers a fun hab => ?_
  rw [hab, hfree] at ha
  cases ha

end Sys2Proof.Machine
end

section
/-! PROOFS. What `AC_SEE`, `AC_CLEAR` and `AC_GET` answer and write (R210 to R214, R218). Every sighting puts one entry into one slot
(`sightingAt`), and `AC_SEE` has one equation over that; `State.timesSeen`, what the cache counts for an address, goes up by one
with each sighting, and that carries the promotion by the fourth. -/

namespace Sys2Proof.Machine

/-! ### A sighting, case by case (R210) -/

/-- What `see` returns when it puts the entry `e` into slot `j`: a promotion when the entry counts more than 3. -/
def sightingAt (s : State) (j : Fin 32) (e : AcSlot) (inserted evicted : Bool) (old : Word) : State × Seen :=
  (s.setSlot j e, { slot := j, inserted, evicted, promoted := exceedsPromote e.count, old })

section Sighting

variable {s : State} {aa : Word} {j : Fin 32}

theorem see_held (h : s.holding aa = some j) :
    see s aa = sightingAt s j { s.ac[j] with count := satSucc s.ac[j].count } false false 0 := by
  rw [see, h]
  rfl

theorem see_entered (hnew : s.holding aa = none) (h : s.vacant = some j) :
    see s aa = sightingAt s j (.fresh aa) true false 0 := by
  rw [see, hnew, h]
  rfl

theorem see_evicting (hnew : s.holding aa = none) (hfull : s.vacant = none) :
    see s aa = sightingAt s s.leastSeen (.fresh aa) true true s.ac[s.leastSeen].aa := by
  rw [see, hnew, hfull]
  rfl

/-- Only one slot has the least count with every lower slot above it (R210: the lowest index wins). -/
theorem leastSeen_eq (hmin : ∀ i : Fin 32, s.ac[j].count.toNat ≤ s.ac[i].count.toNat)
    (hlow : ∀ i : Fin 32, i < j → s.ac[j].count.toNat < s.ac[i].count.toNat) : s.leastSeen = j := by
  obtain ⟨hmin', hlow'⟩ := leastSeen_spec s
  rcases lt_trichotomy s.leastSeen j with hlt | heq | hgt
  · exact absurd (hlow _ hlt) (hmin' j).not_gt
  · exact heq
  · exact absurd (hlow' _ hgt) (hmin _).not_gt

/-! ### The three operations -/

/-- An operation of `PROC` alone raises `RANGE` for an operand out of its domain before anything else (R107, R302). -/
theorem exec_outOfDomain_proc {i : Instr} (hproc : rights (opOf i) = .procOnly) (hag : s.agent = .proc) (hout : outOfDomain i) :
    exec i s = .next (s.answer (errorResponse .range)) :=
  (rangeExactlyOutOfDomain i s ((permitted_iff _ _).2 (by rw [hproc, hag]; rfl))).1 hout

theorem exec_acSee_badState (hag : s.agent = .proc) (hst : s.stage ≠ .discovery) :
    exec (.acSee aa) s = .next (s.answer (errorResponse .badState)) := by
  have hrun : exec (.acSee aa) s = execAcSee aa s := rfl
  rw [hrun, execAcSee, served_proc rfl hag, if_neg hst]
  rfl

/-- In `Discovery` the entry is written, and the address promoted when it counts more than 3 (R212, R214). -/
theorem exec_acSee {e : AcSlot} {inserted evicted : Bool} {old : Word} (hag : s.agent = .proc) (hst : s.stage = .discovery)
    (hsee : see s aa = sightingAt s j e inserted evicted old) : exec (.acSee aa) s =
      if 3 < e.count.toNat then
        .next (((s.setSlot j e).promote aa).answer
          { ra := toByte j.val, rb := seeFlags true evicted inserted, words := [e.count, if evicted then old else 0],
            events := [.aa aa .promoted, .stage s.mode .crcRecovery s.lstate] })
      else .next ((s.setSlot j e).answer
        { ra := toByte j.val, rb := seeFlags false evicted inserted, words := [e.count, if evicted then old else 0] }) := by
  have hrun : exec (.acSee aa) s = execAcSee aa s := rfl
  have hcount : (s.setSlot j e).ac[j] = e := (setSlot_ac ..).trans (if_pos rfl)
  rw [hrun, execAcSee, served_proc rfl hag, if_pos hst, hsee]
  simp only [sightingAt, seeResponse, hcount, exceedsPromote, Config.acPromote, decide_eq_true_eq]
  split
  · next h => rw [decide_eq_true h]; rfl
  · next h => rw [decide_eq_false h]; rfl

theorem exec_acClear (hag : s.agent = .proc) : exec .acClear s = .next (s.clearCache.answer {}) := by
  have hrun : exec .acClear s = execAcClear s := rfl
  rw [hrun, execAcClear, served_proc rfl hag]
  rfl

theorem exec_acGet {slot : Byte} (hag : s.agent = .proc) (hslot : slot.toNat = j.val) : exec (.acGet slot) s =
    if s.ac[j].valid then .next (s.answer { ra := 1, words := [s.ac[j].aa, s.ac[j].count] })
    else .next (s.answer { ra := 0, words := [0, 0] }) := by
  have hrun : exec (.acGet slot) s = execAcGet slot s := rfl
  rw [hrun, execAcGet, served_proc rfl hag, slotIndex_some.2 hslot]
  rfl

end Sighting

/-- Settles O37: one equation for each case of `see`, behind the stage check. -/
theorem acSeeResult : Obligations.AcSeeResult := by
  refine ⟨fun aa s => exec_acSee_badState, fun aa s j n hag hst hv ha hlow hn => ?_, fun aa s j hag hst hnew hv hlow => ?_,
    fun aa s j hag hst hall hmin hlow => ?_⟩
  · subst hn
    have hrun := exec_acSee hag hst (see_held (holding_some.2 ⟨⟨hv, ha⟩, hlow⟩))
    exact ⟨fun hle => hrun.trans (if_neg hle.not_gt), fun hgt => hrun.trans (if_pos hgt)⟩
  · exact exec_acSee hag hst (see_entered (holding_none.2 hnew) (vacant_some.2 ⟨hv, hlow⟩))
  · have hnew : s.holding aa = none := holding_none.2 fun i h => (hall i).2 h.2
    have hfull : s.vacant = none := vacant_none.2 fun i => (hall i).1
    cases leastSeen_eq hmin hlow
    exact exec_acSee hag hst (see_evicting hnew hfull)

/-- Settles O40: one lemma for each outcome; clearing a valid bit keeps the slot's address and count. -/
theorem acClearAndGetResult : Obligations.AcClearAndGetResult := by
  refine ⟨fun s hag => ⟨s.clearCache.ac, exec_acClear hag, fun i => ?_⟩, fun slot s => exec_outOfDomain_proc (i := .acGet slot) rfl,
    fun slot s i hag hslot => ⟨fun hv => ?_, fun hv => ?_⟩⟩
  · simp [State.clearCache]
  · rw [exec_acGet hag hslot, hv]
    rfl
  · rw [exec_acGet hag hslot, hv]
    rfl

/-! ### The fourth sighting (R210, R212, R214) -/

/-- What the cache counts for an address: the count of the slot that holds it, 0 when none does. -/
def State.timesSeen (s : State) (aa : Word) : Nat :=
  match s.holding aa with
  | some j => s.ac[j].count.toNat
  | none => 0

/-- The state `t` is `s` with `n` sightings counted for an address, none of which promoted it. -/
structure Sighted (s : State) (aa : Word) (n : Nat) (t : State) : Prop where
  stage : t.stage = .discovery
  aaValid : t.aaValid = s.aaValid
  mode : t.mode = s.mode
  lstate : t.lstate = s.lstate
  seen : t.timesSeen aa = n

section Count

variable {s t : State} {aa : Word} {n : Nat}

theorem timesSeen_of_unheld (h : s.holding aa = none) : s.timesSeen aa = 0 := by
  rw [State.timesSeen, h]

/-- An entry of the address, put where no lower slot holds it, is what the cache counts for it. -/
theorem timesSeen_setSlot {j : Fin 32} {e : AcSlot} (hv : e.valid = true) (ha : e.aa = aa)
    (hlow : ∀ i : Fin 32, i < j → ¬(s.ac[i].valid = true ∧ s.ac[i].aa = aa)) : (s.setSlot j e).timesSeen aa = e.count.toNat := by
  have hslot : (s.setSlot j e).ac[j] = e := (setSlot_ac ..).trans (if_pos rfl)
  have hheld : (s.setSlot j e).holding aa = some j := by
    refine holding_some.2 ⟨?_, fun i hi => ?_⟩
    · rw [hslot]
      exact ⟨hv, ha⟩
    · rw [setSlot_ac, if_neg hi.ne']
      exact hlow i hi
  rw [State.timesSeen, hheld]
  exact congrArg (fun e => e.count.toNat) hslot

theorem toNat_satSucc (v : Word) : (satSucc v).toNat = min (v.toNat + 1) (2 ^ 32 - 1) := by
  rw [satSucc, BitVec.toNat_ofNat]
  omega

/-- A sighting counts one more for its address, saturating, in the slot it writes (R210). -/
theorem exists_sightingAt (s : State) (aa : Word) :
    ∃ j e inserted evicted old, see s aa = sightingAt s j e inserted evicted old ∧
      e.count.toNat = min (s.timesSeen aa + 1) (2 ^ 32 - 1) ∧ (s.setSlot j e).timesSeen aa = e.count.toNat := by
  cases hh : s.holding aa with
  | some j =>
    obtain ⟨⟨hv, ha⟩, hlow⟩ := holding_some.1 hh
    refine ⟨_, _, _, _, _, see_held hh, ?_, timesSeen_setSlot hv ha hlow⟩
    rw [toNat_satSucc, State.timesSeen, hh]
  | none =>
    have hcount : (AcSlot.fresh aa).count.toNat = min (s.timesSeen aa + 1) (2 ^ 32 - 1) := by
      rw [timesSeen_of_unheld hh]
      rfl
    have hseen (j : Fin 32) : (s.setSlot j (.fresh aa)).timesSeen aa = (AcSlot.fresh aa).count.toNat :=
      timesSeen_setSlot rfl rfl fun i _ => holding_none.1 hh i
    cases hf : s.vacant with
    | some j => exact ⟨_, _, _, _, _, see_entered hh hf, hcount, hseen j⟩
    | none => exact ⟨_, _, _, _, _, see_evicting hh hf, hcount, hseen _⟩

/-- Up to the third sighting nothing but the cache changes. -/
theorem Sighted.again (h : Sighted s aa n t) (hn : n < 3) :
    ∃ u, issued .proc (.acSee aa) t = .next u ∧ Sighted s aa (n + 1) u := by
  obtain ⟨j, e, inserted, evicted, old, hsee, hcount, hseen⟩ := exists_sightingAt (t.as .proc) aa
  have hbefore : (t.as .proc).timesSeen aa = n := h.seen
  have hafter : e.count.toNat = n + 1 := by omega
  have hrun := exec_acSee (s := t.as .proc) rfl h.stage hsee
  rw [if_neg (by omega)] at hrun
  exact ⟨_, hrun, h.stage, h.aaValid, h.mode, h.lstate, hseen.trans hafter⟩

/-- The fourth sighting counts 4, which exceeds 3. -/
theorem Sighted.promotes (h : Sighted s aa 3 t) :
    ∃ u r, issued .proc (.acSee aa) t = .next u ∧ u.stage = .crcRecovery ∧ u.aa = aa ∧ u.aaValid = true ∧
      u.lastOn .proc = some r ∧ r.words.getD 0 0 = 4 ∧ r.events = [.aa aa .promoted, .stage s.mode .crcRecovery s.lstate] := by
  obtain ⟨j, e, inserted, evicted, old, hsee, hcount, -⟩ := exists_sightingAt (t.as .proc) aa
  have hbefore : (t.as .proc).timesSeen aa = 3 := h.seen
  have hfour : e.count.toNat = 4 := by omega
  have hrun := exec_acSee (s := t.as .proc) rfl h.stage hsee
  rw [if_pos (by omega)] at hrun
  refine ⟨_, _, hrun, rfl, rfl, rfl, State.lastOn_answer rfl _, BitVec.eq_of_toNat_eq hfour, ?_⟩
  rw [← h.mode, ← h.lstate]
  rfl

theorem repeated_succ {g : Agent} {i : Instr} (h : repeated g i n s = .next t) : repeated g i (n + 1) s = issued g i t := by
  rw [repeated, h, andThen]

theorem repeated_acSee (hst : s.stage = .discovery) (hnew : s.holding aa = none) :
    ∀ n ≤ 3, ∃ t, repeated .proc (.acSee aa) n s = .next t ∧ Sighted s aa n t
  | 0, _ => ⟨s, rfl, hst, rfl, rfl, rfl, timesSeen_of_unheld hnew⟩
  | n + 1, hn => by
    obtain ⟨t, hrun, hseen⟩ := repeated_acSee hst hnew n (by omega)
    obtain ⟨u, hu, hagain⟩ := hseen.again hn
    exact ⟨u, (repeated_succ hrun).trans hu, hagain⟩

end Count

/-- Settles O38: three sightings are counted one by one (`repeated_acSee`); the next exceeds 3 and promotes. -/
theorem fourthSightingPromotes : Obligations.FourthSightingPromotes := by
  intro aa s hst hnew
  have hrun := repeated_acSee hst (holding_none.2 hnew)
  refine ⟨fun n hn => ?_, ?_⟩
  · obtain ⟨t, ht, hseen⟩ := hrun n hn
    exact ⟨t, ht, hseen.stage, hseen.aaValid⟩
  · obtain ⟨t, ht, hseen⟩ := hrun 3 le_rfl
    obtain ⟨u, r, hu, hpromoted⟩ := hseen.promotes
    exact ⟨u, r, (repeated_succ ht).trans hu, hpromoted⟩

end Sys2Proof.Machine
end

section
/-! PROOFS. `AC_SCAN` and the loop of R216 by bit index: the window the scan cuts along the air bits is read at the positions of
`airBit`, bytes, header and all, and the two loops then make the same steps. -/

namespace Sys2Proof.Machine

/-! ### Bits of the air (R81) -/

section Bits

variable {ch : Byte} {data : List Byte}

theorem length_airBits (data : List Byte) : (airBits data).length = 8 * data.length := by
  simp [airBits, receiveBits, Nat.mul_comm]

/-- Entry `k` of the air bits is bit `7 - k mod 8` of byte `k / 8`; both read 0 past the end (R216). -/
theorem getD_airBits (data : List Byte) (k : Nat) : (airBits data).getD k false = airBit data k := by
  induction data generalizing k with
  | nil => simp [airBits, airBit]
  | cons b data ih =>
    have hlen : (receiveBits b).length = 8 := rfl
    have hcons : airBits (b :: data) = receiveBits b ++ airBits data := rfl
    rw [hcons]
    by_cases hk : k < 8
    · rw [List.getD_append _ _ _ _ hk]
      simp [receiveBits, airBit, hk, Nat.div_eq_of_lt hk, Nat.mod_eq_of_lt hk]
    · obtain ⟨m, rfl⟩ := Nat.exists_eq_add_of_le (Nat.le_of_not_lt hk)
      rw [List.getD_append_right _ _ _ _ (Nat.le_add_right 8 m), hlen, Nat.add_sub_cancel_left, ih, airBit, airBit,
        Nat.add_mod_left, Nat.add_div_left _ (by decide), List.getD_cons_succ]

theorem getD_drop_airBits (data : List Byte) (q k : Nat) : ((airBits data).drop q).getD k false = airBit data (q + k) := by
  rw [← getD_airBits, List.getD_eq_getElem?_getD, List.getElem?_drop, List.getD_eq_getElem?_getD]

/-! ### The bytes of a window (R216) -/

theorem getLsbD_byteOf {bs : List Bool} {k : Nat} (hk : k < 8) : (byteOf bs).getLsbD k = bs.getD k false := by
  rw [byteOf, getLsbD_ofNat_bitsVal, decide_eq_true hk, Bool.true_and]

theorem getLsbD_windowByte (data : List Byte) (q m : Nat) {k : Nat} (hk : k < 8) :
    (windowByte ((airBits data).drop q) m).getLsbD k = airBit data (q + 8 * m + k) := by
  rw [windowByte, getLsbD_byteOf hk, List.getD_eq_getElem?_getD, List.getElem?_take_of_lt hk, List.drop_drop,
    ← List.getD_eq_getElem?_getD, getD_drop_airBits]

theorem windowByte_eq (data : List Byte) (q m : Nat) : windowByte ((airBits data).drop q) m = octetAt data (32 + q) m := by
  refine BitVec.eq_of_getLsbD_eq fun k hk => ?_
  rw [getLsbD_windowByte data q m hk, octetAt, getLsbD_byteOf hk]
  simp [hk]

theorem windowDewhitened_eq (ch : Byte) (data : List Byte) (q m : Nat) :
    windowDewhitened ch ((airBits data).drop q) m = dewhitenedAt ch data (32 + q) m := by
  refine BitVec.eq_of_getLsbD_eq fun k hk => ?_
  rw [windowDewhitened, BitVec.getLsbD_xor, getLsbD_windowByte data q m hk, getLsbD_maskAt hk, dewhitenedAt, getLsbD_byteOf hk]
  simp [hk, wbit, Nat.add_assoc]

theorem windowAddress_eq (data : List Byte) (q : Nat) : windowAddress ((airBits data).drop q) = candidateAt data (32 + q) := by
  simp only [windowAddress, windowByte_eq, candidateAt]

/-! ### The header (R215) -/

theorem pattern_eq (ch hb : Byte) : pattern ch hb = (List.range 16).map (patternBit ch hb) := rfl

/-- The 16 bits at a position with 16 bits to come. -/
theorem header_eq {q : Nat} (hq : q + 48 ≤ 8 * data.length) :
    (((airBits data).drop q).drop 32).take 16 = (List.range 16).map fun k => airBit data (32 + q + k) := by
  have hlen : ((((airBits data).drop q).drop 32).take 16).length = 16 := by
    rw [List.length_take, List.length_drop, List.length_drop, length_airBits]
    omega
  refine List.ext_getElem (by rw [hlen, List.length_map, List.length_range]) fun k hk _ => ?_
  rw [List.getElem_take, ← List.getD_eq_getElem (d := false), List.drop_drop, getD_drop_airBits, List.getElem_map,
    List.getElem_range, Nat.add_comm q]

theorem contains_patterns {q : Nat} (hq : q + 48 ≤ 8 * data.length) :
    (patterns ch).contains ((((airBits data).drop q).drop 32).take 16) = matchAt ch data (32 + q) := by
  have hall (hb : Byte) : ((List.range 16).map (fun k => airBit data (32 + q + k)) == pattern ch hb) =
      (List.range 16).all fun k => airBit data (32 + q + k) == patternBit ch hb k := by
    rw [Bool.eq_iff_iff, beq_iff_eq, pattern_eq, List.map_inj_left, List.all_eq_true]
    simp only [beq_iff_eq]
  rw [header_eq hq, patterns, matchAt, List.contains_eq_any_beq, List.any_map]
  exact congrArg (headerBytes.any ·) (funext hall)

end Bits

/-! ### The loop (R216) -/

section Loop

variable {ch : Byte} {data : List Byte}

/-- A match is recorded alike. -/
theorem record_eq_scanAt {acc : Scan} {q : Nat} (hgoing : acc.promoted = false) (hmatch : matchAt ch data (32 + q) = true) :
    acc.record ch (32 + q) ((airBits data).drop q) = scanAt ch data acc (32 + q) := by
  rw [scanAt, if_neg (by simp [hgoing, hmatch]), Scan.record, windowAddress_eq, windowDewhitened_eq, windowDewhitened_eq]
  dsimp only
  cases (see acc.state (candidateAt data (32 + q))).2.promoted <;> rfl

theorem foldl_scanAt_of_promoted {acc : Scan} (h : acc.promoted = true) (ps : List Nat) : ps.foldl (scanAt ch data) acc = acc := by
  induction ps with
  | nil => rfl
  | cons p ps ih => rw [List.foldl_cons, scanAt, if_pos (.inl h), ih]

theorem scanFrom_eq_foldl {n q : Nat} {acc : Scan} (hgoing : acc.promoted = false) (hfit : n + q + 47 ≤ 8 * data.length) :
    scanFrom ch (patterns ch) n (32 + q) ((airBits data).drop q) acc = (List.range' (32 + q) n).foldl (scanAt ch data) acc := by
  induction n generalizing q acc with
  | zero => rfl
  | succ n ih =>
    have hnext (acc' : Scan) (h : acc'.promoted = false) :
        scanFrom ch (patterns ch) n (32 + q + 1) (((airBits data).drop q).drop 1) acc' =
          (List.range' (32 + q + 1) n).foldl (scanAt ch data) acc' := by
      rw [List.drop_drop]
      exact ih (q := q + 1) h (by omega)
    rw [scanFrom, contains_patterns (by omega), List.range'_succ, List.foldl_cons]
    by_cases hmatch : matchAt ch data (32 + q) = true
    · rw [if_pos hmatch, record_eq_scanAt hgoing hmatch]
      dsimp only
      split
      · next hp => rw [foldl_scanAt_of_promoted hp]
      · next hp => exact hnext _ (Bool.eq_false_iff.2 hp)
    · rw [if_neg hmatch, scanAt, if_pos (.inr (Bool.eq_false_iff.2 hmatch))]
      exact hnext acc hgoing

theorem scan_eq_scanByIndex (s : State) (ch : Byte) (data : List Byte) : scan s ch data = scanByIndex s ch data := by
  rw [scan, scanByIndex, scanPositions, ← List.range'_eq_map_range]
  by_cases hlen : 88 ≤ 8 * data.length
  · exact scanFrom_eq_foldl (q := 0) rfl (by omega)
  · rw [Nat.sub_eq_zero_of_le (by omega)]
    rfl

end Loop

theorem exec_acScan {ch : Byte} {data : List Byte} {s : State} (hag : s.agent = .proc) (hch : ch.toNat ≤ 39)
    (hlen : data.length ≤ 263) : exec (.acScan ch data) s =
      if s.stage = .discovery then
        .next ((scan s ch data).state.answer
          { rb := toHalf (bit (scan s ch data).promoted), words := [toWord (scan s ch data).found, (scan s ch data).last],
            events := (scan s ch data).events })
      else .next (s.answer (errorResponse .badState)) := by
  have hrun : exec (.acScan ch data) s = execAcScan ch data s := rfl
  rw [hrun, execAcScan, served_proc rfl hag, if_neg (by rw [badChan_or_tooLong]; omega)]
  rfl

/-- Settles O39: behind the domain and stage checks, the two scans are one (`scan_eq_scanByIndex`). -/
theorem acScanRefinesTheLoop : Obligations.AcScanRefinesTheLoop := by
  refine ⟨fun ch data s hag hout => ?_, fun ch data s hag hch hlen hst => ?_, fun ch data s hag hch hlen hst => ?_⟩
  · exact exec_outOfDomain_proc (i := .acScan ch data) rfl hag hout
  · exact (exec_acScan hag hch hlen).trans (if_neg hst)
  · rw [exec_acScan hag hch hlen, if_pos hst, scan_eq_scanByIndex]
    cases (scanByIndex s ch data).promoted <;> rfl

end Sys2Proof.Machine
end

section
/-! PROOFS. The changes of the triple (R230, R270, R290): the triple each named update leaves, what a packet, a scan and a
timeout do to it, and from these the rows an operation takes (`Effect.moves`). -/

namespace Sys2Proof.Machine

/-! ### The triple of a legal state (R25) -/

section Legal

variable {s : State}

theorem triple_of_off (hs : s.TripleLegal) (hm : s.mode = .off) : s.triple = tripleOff := by
  rcases hs with ⟨-, hl, hst⟩ | ⟨h, -⟩ | ⟨h, -⟩ | ⟨h, -⟩ | ⟨h, -⟩ | ⟨h, -⟩
  · rw [State.triple, hm, hl, hst]; rfl
  all_goals
    rw [h] at hm
    cases hm

theorem triple_of_searching {st : Stage} (hs : s.TripleLegal) (hst : s.stage = st) (h : st.searching = true) :
    s.triple = triplePromisc st := by
  subst hst
  obtain ⟨hm, hl⟩ := tripleLegal_of_searching hs h
  rw [State.triple, hm, hl]
  rfl

theorem triple_mem_promiscTriples (hs : s.TripleLegal) (hm : s.mode = .promisc) : s.triple ∈ promiscTriples := by
  rcases hs with ⟨h, -⟩ | ⟨-, hl, hst⟩ | ⟨-, hl, hst⟩ | ⟨h, -⟩ | ⟨h, -⟩ | ⟨h, -⟩
  case inr.inl =>
    rcases hst with hst | hst | hst | hst
    all_goals
      rw [State.triple, hm, hl, hst]
      decide
  case inr.inr.inl =>
    rw [State.triple, hm, hl, hst]
    decide
  all_goals
    rw [h] at hm
    cases hm

theorem triple_mem_followTriples (hs : s.TripleLegal) (hm : s.mode = .follow) : s.triple ∈ followTriples := by
  rcases hs with ⟨h, -⟩ | ⟨h, -⟩ | ⟨h, -⟩ | ⟨-, hl, hst⟩ | ⟨-, hl, hst⟩ | ⟨-, hl, hst⟩
  case inr.inr.inr.inl | inr.inr.inr.inr.inl | inr.inr.inr.inr.inr =>
    rw [State.triple, hm, hl, hst]
    decide
  all_goals
    rw [h] at hm
    cases hm

/-- The block waits for a request in `FOLLOW` mode in one triple. -/
theorem triple_of_followListening (hs : s.TripleLegal) (hm : s.mode = .follow) (hl : s.lstate = .listening) :
    s.triple = tripleFollowListening := by
  have hmem := triple_mem_followTriples hs hm
  simp_all [followTriples, State.triple, tripleFollow, tripleFollowListening]

/-- A connection is followed in one triple of `PROMISC` mode and two of `FOLLOW` mode. -/
theorem triple_of_connectionFollow (hs : s.TripleLegal) (hst : s.stage = .connectionFollow) :
    (s.mode = .promisc ∧ s.triple = triplePromiscConnected) ∨
      (s.mode = .follow ∧ (s.triple = tripleFollow .connPending ∨ s.triple = tripleFollow .connected)) := by
  rcases hs with ⟨-, -, h⟩ | ⟨-, -, h⟩ | ⟨hm, hl, -⟩ | ⟨-, -, h⟩ | ⟨hm, hl, -⟩ | ⟨hm, hl, -⟩
  case inr.inr.inl => exact .inl ⟨hm, by rw [State.triple, hm, hl, hst]; rfl⟩
  case inr.inr.inr.inr.inl => exact .inr ⟨hm, .inl (by rw [State.triple, hm, hl, hst]; rfl)⟩
  case inr.inr.inr.inr.inr => exact .inr ⟨hm, .inr (by rw [State.triple, hm, hl, hst]; rfl)⟩
  all_goals simp_all

end Legal

/-! ### The rows of an operation -/

/-- The operation leaves the triple, or changes it along one of its rows (R230, R270). -/
def Moves (op : Op) (s t : State) : Prop := t.triple = s.triple ∨ (s.triple, t.triple) ∈ transitions op

theorem Moves.row {op : Op} {s t : State} {x y : Triple} (hs : s.triple = x) (ht : t.triple = y)
    (h : (x, y) ∈ transitions op) : Moves op s t := .inr (by rwa [hs, ht])

/-- A row that changes the stage alone. -/
theorem Moves.restage {op : Op} {s t : State} {st st' : Stage} (hs : s.triple = triplePromisc st)
    (ht : t.triple = { s.triple with stage := st' }) (h : (triplePromisc st, triplePromisc st') ∈ transitions op) :
    Moves op s t :=
  .row hs (ht.trans (by rw [hs]; rfl)) h

/-- A row for each triple of a mode, all to the same triple. -/
theorem Moves.fromEach {op : Op} {s t : State} {xs : List Triple} {y : Triple} (hs : s.triple ∈ xs) (ht : t.triple = y)
    (h : xs.map (fun x => (x, y)) ⊆ transitions op) : Moves op s t :=
  .inr (h (by rw [ht]; exact List.mem_map_of_mem hs))

theorem Moves.answer {op : Op} {s u : State} (r : Response) (h : Moves op s u) : Moves op s (u.answer r) := h

section Updates

variable {s : State}

theorem reseeded_triple (hm : s.mode = .promisc) : s.reseeded.triple = triplePromisc .discovery := by
  have h : s.reseeded.triple = { mode := s.mode, lstate := .listening, stage := .discovery } := rfl
  rw [h, hm]
  rfl

/-- Leaving a connection: back to the search in `PROMISC` mode, else `OFF` (R288, R290). -/
theorem unlink_triple : s.unlink.triple = if s.mode = .promisc then triplePromisc .discovery else tripleOff := by
  unfold State.unlink
  split
  · next hm => exact reseeded_triple hm
  · rfl

/-! ### Sightings and the scan (R210, R214, R216) -/

theorem see_triple (s : State) (aa : Word) : (see s aa).1.triple = s.triple := by
  rw [see_frame]
  rfl

theorem promote_see_triple (s : State) (aa a : Word) :
    ((see s aa).1.promote a).triple = { s.triple with stage := .crcRecovery } := by
  rw [see_frame]
  rfl

/-- A candidate recorded changes the triple only by its promotion. -/
theorem Scan.record_triple (acc : Scan) (ch : Byte) (p : Nat) (window : List Bool) :
    (acc.record ch p window).state.triple =
      if (acc.record ch p window).promoted then { acc.state.triple with stage := .crcRecovery } else acc.state.triple := by
  unfold Scan.record
  dsimp only
  split
  · exact promote_see_triple ..
  · exact see_triple ..

theorem scanFrom_triple (ch : Byte) (pats : List (List Bool)) (n p : Nat) (window : List Bool) (acc : Scan) :
    (scanFrom ch pats n p window acc).state.triple = acc.state.triple ∨
      (scanFrom ch pats n p window acc).state.triple = { acc.state.triple with stage := .crcRecovery } := by
  induction n generalizing p window acc with
  | zero => exact .inl rfl
  | succ n ih =>
    have recorded := acc.record_triple ch p window
    unfold scanFrom
    dsimp only
    split
    · split
      · next hp => exact .inr (by rw [recorded, if_pos hp])
      · next hp =>
        rw [if_neg hp] at recorded
        rw [← recorded]
        exact ih ..
    · exact ih ..

/-! ### Packets (R240 to R251, R277) -/

theorem stageCrc_moves (b : Fin 4) (p : PacketView) (hs : s.TripleLegal) (hst : s.stage = .crcRecovery) :
    Moves .prPkt s (stageCrc s b p).state := by
  have from_crc := triple_of_searching hs hst rfl
  unfold stageCrc
  split
  · exact .restage (st' := .hopIntervalRecovery) from_crc rfl (by decide)
  · exact .inl rfl

theorem stageInterval_moves (p : PacketView) (hs : s.TripleLegal) (hst : s.stage = .hopIntervalRecovery) :
    Moves .prPkt s (stageInterval s p).state := by
  have from_interval := triple_of_searching hs hst rfl
  unfold stageInterval
  dsimp only
  split
  · exact .inl rfl
  · split
    · split
      · exact .restage (st' := .hopIncrementRecovery) from_interval rfl (by decide)
      · exact .inl rfl
    · exact .inl rfl

theorem inconclusive_moves (hs : s.TripleLegal) (hst : s.stage = .hopIncrementRecovery) :
    Moves .prPkt s (inconclusive s).state := by
  have from_increment := triple_of_searching hs hst rfl
  have hm : s.mode = .promisc := congrArg Triple.mode from_increment
  unfold inconclusive
  dsimp only
  split
  · exact .row from_increment (reseeded_triple hm) (by decide)
  · exact .inl rfl

theorem stageIncrement_moves (p : PacketView) (hs : s.TripleLegal) (hst : s.stage = .hopIncrementRecovery) :
    Moves .prPkt s (stageIncrement s p).state := by
  have from_increment := triple_of_searching hs hst rfl
  have hm : s.mode = .promisc := congrArg Triple.mode from_increment
  unfold stageIncrement
  split
  · exact .inl rfl
  · split
    · split
      · refine .row (y := { mode := s.mode, lstate := .connected, stage := .connectionFollow }) from_increment rfl ?_
        rw [hm]
        decide
      · exact inconclusive_moves hs hst
    · exact .inl rfl

theorem stageFollow_moves (p : PacketView) (hs : s.TripleLegal) : Moves .prPkt s (stageFollow s p).state := by
  unfold stageFollow
  dsimp only
  split
  · next hl =>
    obtain ⟨hm, hst⟩ := tripleLegal_of_connPending hs hl
    have from_pending : s.triple = tripleFollow .connPending := by
      rw [State.triple, hm, hl, hst]
      rfl
    refine .row (y := { s.triple with lstate := .connected }) from_pending rfl ?_
    rw [from_pending]
    decide
  · exact .inl rfl

theorem stageHandler_moves (p : PacketView) (hs : s.TripleLegal) : Moves .prPkt s (stageHandler s p).state := by
  unfold stageHandler
  split
  · next hst => exact stageInterval_moves p hs hst
  · next hst => exact stageIncrement_moves p hs hst
  · exact stageFollow_moves p hs
  · exact .inl rfl
  · exact .inl rfl
  · exact .inl rfl

theorem intake_moves (b : Fin 4) (hs : s.TripleLegal) : Moves .prPkt s (intake s b).state := by
  unfold intake
  dsimp only
  split
  · exact .inl rfl
  · split
    · exact .inl rfl
    · split
      · next hst => exact stageCrc_moves b _ hs hst
      · split
        · exact .inl rfl
        · exact stageHandler_moves _ hs

/-! ### Time and cancel (R260, R288, R290) -/

/-- The three recovery stages re-seed to `Discovery` by `TICK`. -/
theorem tick_reseeds {st : Stage} (h : st.recovering = true) :
    (triplePromisc st, triplePromisc .discovery) ∈ transitions .tick := by
  cases st with
  | crcRecovery | hopIntervalRecovery | hopIncrementRecovery => decide
  | idle | discovery | connectionFollow => cases h

theorem timeouts_moves {u : State} {now : Ts} {events : List Event} (hs : s.TripleLegal)
    (h : timeouts s now = some (u, events)) : Moves .tick s u := by
  unfold timeouts at h
  dsimp only at h
  split at h
  · next hd =>
    cases h
    have from_discovery := triple_of_searching hs hd.1 rfl
    exact .inl ((reseeded_triple (congrArg Triple.mode from_discovery)).trans from_discovery.symm)
  · split at h
    · next hr =>
      cases h
      have from_recovery := triple_of_searching hs rfl (by simp [Stage.searching, hr.1])
      exact .row from_recovery (reseeded_triple (congrArg Triple.mode from_recovery)) (tick_reseeds hr.1)
    · split at h
      · next hf =>
        cases h
        rcases triple_of_connectionFollow hs hf.1 with ⟨hm, from_follow⟩ | ⟨hm, from_follow | from_follow⟩
        · exact .row from_follow (by rw [unlink_triple, if_pos hm]) (by decide)
        · exact .row from_follow (by rw [unlink_triple, if_neg (by simp [hm])]) (by decide)
        · exact .row from_follow (by rw [unlink_triple, if_neg (by simp [hm])]) (by decide)
      · cases h

theorem unlink_moves (hs : s.TripleLegal) (hm : s.mode ≠ .off) : Moves .lsCancel s s.unlink := by
  cases hmode : s.mode with
  | off => exact absurd hmode hm
  | promisc =>
    have back : s.unlink.triple = triplePromisc .discovery := by rw [unlink_triple, if_pos hmode]
    exact .fromEach (triple_mem_promiscTriples hs hmode) back (List.subset_append_left ..)
  | follow =>
    have ended : s.unlink.triple = tripleOff := by rw [unlink_triple, if_neg (by simp [hmode])]
    exact .fromEach (triple_mem_followTriples hs hmode) ended (List.subset_append_right ..)

end Updates

/-! ### Every operation -/

/-- An operation that R230 and R270 do not name leaves the triple. -/
theorem Effect.triple_of_unnamed {i : Instr} {s t : State} (h : Effect i s t) (hrows : transitions (opOf i) = []) :
    t.triple = s.triple := by
  cases i with
  | acSee | acScan | prStart | prStop | prPkt | tick | prReseed | prSetaa | lsFollow | lsStop | lsConnreq | lsCancel =>
    cases hrows
  | cmAdv | crcRev24 | pbStat | acClear | prGet | prGetcv | lsFilter =>
    obtain rfl := h
    rfl
  | cmI2f | whLoad | whRefl | crcFwd | crcFwdt | crcRev | prSetcv | lsUpdate | rtTake =>
    obtain ⟨-, rfl⟩ := h
    rfl
  | cmF2i | pbRssi | pbAbort =>
    obtain ⟨_, -, rfl⟩ := h
    rfl
  | cmHop | whXor | whXors | crcChk =>
    obtain ⟨-, -, rfl⟩ := h
    rfl
  | whStep =>
    obtain ⟨-, -, -, rfl⟩ := h
    rfl
  | pbPoll | pbRead | pbRel =>
    obtain ⟨_, _, _, rfl⟩ := h
    rfl
  | pbAcq =>
    obtain ⟨-, ⟨-, rfl⟩ | ⟨b, -, rfl⟩⟩ := h
    · rfl
    · rfl
  | pbWrite =>
    obtain ⟨-, b, -, ⟨rfl, -⟩ | ⟨-, -, rfl⟩⟩ := h
    · rfl
    · rfl
  | pbCommit =>
    obtain ⟨-, b, -, ⟨-, rfl⟩ | ⟨-, rfl⟩⟩ := h
    · rfl
    · rfl
  | acGet =>
    obtain ⟨j, -, ⟨-, rfl⟩ | ⟨-, rfl⟩⟩ := h
    · rfl
    · rfl
  | prGetaa =>
    obtain ⟨-, rfl⟩ | ⟨-, rfl⟩ := h
    · rfl
    · rfl
  | prSetto =>
    obtain ⟨-, rfl⟩ | ⟨-, rfl⟩ | ⟨-, rfl⟩ := h
    · rfl
    · rfl
    · rfl
  | lsEvent =>
    obtain ⟨-, ⟨-, rfl⟩ | ⟨-, rfl⟩⟩ := h
    · rfl
    · rfl

theorem Effect.moves {i : Instr} {s t : State} (hs : s.TripleLegal) (h : Effect i s t) : Moves (opOf i) s t := by
  cases i with
  | acSee aa =>
    obtain ⟨hst, ⟨-, rfl⟩ | ⟨-, rfl⟩⟩ := h
    · have from_discovery := triple_of_searching hs hst rfl
      exact .restage from_discovery (promote_see_triple s aa aa) List.mem_cons_self
    · exact .inl (see_triple s aa)
  | acScan ch data =>
    obtain ⟨-, -, hst, rfl⟩ := h
    have from_discovery := triple_of_searching hs hst rfl
    rcases scanFrom_triple ch (patterns ch) (8 * data.length - 87) 32 (airBits data) ⟨s, 0, 0, false, []⟩ with
      same | promoted
    · exact .inl same
    · exact .restage from_discovery promoted List.mem_cons_self
  | prStart =>
    obtain ⟨-, hm, rfl⟩ := h
    exact .row (triple_of_off hs hm) rfl List.mem_cons_self
  | lsFollow =>
    obtain ⟨-, -, hm, rfl⟩ := h
    exact .row (triple_of_off hs hm) rfl List.mem_cons_self
  | prStop =>
    obtain ⟨hm, rfl⟩ := h
    exact .fromEach (triple_mem_promiscTriples hs hm) rfl (List.Subset.refl _)
  | lsStop =>
    obtain ⟨hm, rfl⟩ := h
    exact .fromEach (triple_mem_followTriples hs hm) rfl (List.Subset.refl _)
  | prReseed =>
    obtain ⟨hm, rfl⟩ := h
    exact .fromEach (triple_mem_promiscTriples hs hm) (reseeded_triple hm) (List.Subset.refl _)
  | prSetaa aa =>
    obtain ⟨hm, rfl⟩ := h
    have to_crc : (s.track aa).triple = triplePromisc .crcRecovery := by
      rw [triplePromisc, ← hm]
      rfl
    exact .fromEach (triple_mem_promiscTriples hs hm) to_crc (List.Subset.refl _)
  | prPkt =>
    obtain ⟨b, -, -, rfl⟩ := h
    exact (intake_moves b hs).answer _
  | tick now =>
    obtain ⟨-, rfl⟩ | ⟨-, -, rfl⟩ | ⟨-, u, events, hu, rfl⟩ := h
    · exact .inl rfl
    · exact .inl rfl
    · exact (timeouts_moves (s := s.latch now) hs hu).answer _
  | lsConnreq =>
    obtain ⟨-, hm, hl, ⟨-, rfl⟩ | ⟨-, q, -, rfl⟩⟩ := h
    · exact .inl rfl
    · have to_pending : (s.connect q).triple = tripleFollow .connPending := by
        rw [tripleFollow, ← hm]
        rfl
      exact .row (triple_of_followListening hs hm hl) to_pending List.mem_cons_self
  | lsCancel =>
    obtain ⟨-, rfl⟩ | ⟨hm, rfl⟩ := h
    · exact .inl rfl
    · exact (unlink_moves hs hm).answer _
  | _ => exact .inl (h.triple_of_unnamed rfl)

/-- Settles O59: a failure leaves the triple, and an effect moves it along the operation's rows (`Effect.moves`). -/
theorem onlyTheseTransitions : Obligations.OnlyTheseTransitions := by
  intro i s t hrows h
  rcases exec_next h with ⟨st, -, rfl⟩ | heffect
  · exact .inl rfl
  · exact heffect.moves (rowsHolding_eq_one.1 hrows)

end Sys2Proof.Machine
end

section
/-! PROOFS. What `PR_PKT` does at each gate and in the stages `CrcRecovery`, `HopIntervalRecovery` and `ConnectionFollow`
(R237, R239 to R247, R277): one equation of `intake`, of the stage handler and of `exec` for each outcome; then the packets
that agree on an interval, counted one by one (`Converging`). -/

namespace Sys2Proof.Machine

/-! ### The gates (R237, R239) -/

section Gates

variable {s : State} {b : Fin 4} {buf : Byte}

theorem exec_prPkt_notQueued (hag : s.agent = .proc) (hb : buf.toNat = b.val) (hq : s.pb[b].tag ≠ .queued) :
    exec (.prPkt buf) s = .next (s.answer (errorResponse .badTag)) := by
  have hrun : exec (.prPkt buf) s = execPrPkt buf s := rfl
  rw [hrun, execPrPkt, served_proc rfl hag, bufIndex_some.2 hb]
  exact if_neg hq

/-- A packet that is turned away: `PR_PKT` answers why and writes nothing. -/
theorem exec_prPkt_away {d : Disposition} (hag : s.agent = .proc) (hb : buf.toNat = b.val) (hq : s.pb[b].tag = .queued)
    (hin : intake s b = { state := s, disposition := d, events := [] }) :
    exec (.prPkt buf) s = .next (s.answer { ra := d.code, rb := toHalf s.stage.code }) := by
  rw [exec_prPkt_queued hag hb hq, hin]

theorem intake_unhandledStage (hst : s.stage = .idle ∨ s.stage = .discovery) :
    intake s b = { state := s, disposition := .ignoredStage, events := [] } :=
  if_pos hst

theorem intake_otherAddress (hst : ¬(s.stage = .idle ∨ s.stage = .discovery)) (ha : s.aaValid = false ∨ s.pb[b].aa ≠ s.aa) :
    intake s b = { state := s, disposition := .ignoredAa, events := [] } :=
  (if_neg hst).trans (if_pos ha)

/-- On the tracked address the address gate is passed. -/
theorem addressGate_passed (ha : s.aaValid = true) (haa : s.pb[b].aa = s.aa) : ¬(s.aaValid = false ∨ s.pb[b].aa ≠ s.aa) := by
  rintro (h | h)
  · exact absurd (ha.symm.trans h) (by decide)
  · exact h haa

/-- `CrcRecovery` has no CRC gate: the seed is what it looks for (R239, R240). -/
theorem intake_crcRecovery (hst : s.stage = .crcRecovery) (ha : s.aaValid = true) (haa : s.pb[b].aa = s.aa) :
    intake s b = stageCrc s b s.pb[b].view :=
  have hhandled : ¬(s.stage = .idle ∨ s.stage = .discovery) := by simp [hst]
  (if_neg hhandled).trans ((if_neg (addressGate_passed ha haa)).trans (if_pos hst))

/-- The stages with a CRC gate are none of the others (R239). -/
theorem seedKnown_stages {st : Stage} (h : st.SeedKnown) : ¬(st = .idle ∨ st = .discovery) ∧ st ≠ .crcRecovery := by
  rcases h with rfl | rfl | rfl
  all_goals decide

theorem intake_badCrc (hst : s.stage.SeedKnown) (ha : s.aaValid = true) (haa : s.pb[b].aa = s.aa) (hon : s.crcVerify = true)
    (hbad : crcOk s.crcLfsr s.pb[b].bytes = false) :
    intake s b = { state := s, disposition := .droppedCrc, events := [] } :=
  have ⟨hhandled, hseed⟩ := seedKnown_stages hst
  (if_neg hhandled).trans ((if_neg (addressGate_passed ha haa)).trans ((if_neg hseed).trans (if_pos ⟨hon, hbad⟩)))

/-- A packet past both gates leaves what the handler of its stage leaves (R237). -/
theorem exec_prPkt_handled {h : Handled} {st : Stage} (hag : s.agent = .proc) (hb : buf.toNat = b.val) (hst : s.stage.SeedKnown)
    (ha : s.aaValid = true) (hg : s.pb[b].passesGates s) (hh : stageHandler s s.pb[b].view = h) (hafter : h.state.stage = st) :
    exec (.prPkt buf) s = .next (h.state.answer
      { ra := h.disposition.code, rb := toHalf st.code
        events := .packet b (crcOk s.crcLfsr s.pb[b].bytes) true s.aa s.pb[b].ts :: h.events }) := by
  rw [exec_prPkt_queued hag hb hg.1, intake_handled hst ha hg, hh, hafter]

end Gates

/-! ### The signature (R240) -/

section Signature

variable {s : State} {p : PacketView} {c0 c1 c2 : Byte}

/-- A signature is the five bytes `01 00 c0 c1 c2`. -/
theorem isSignature_iff : p.isSignature = true ↔ ∃ c0 c1 c2 : Byte, p.data = [0x01#8, 0x00#8, c0, c1, c2] := by
  constructor
  · intro h
    obtain ⟨⟨hlen, h0⟩, h1⟩ : (p.data.length = 5 ∧ p.hdr0 = 0x01#8) ∧ p.hdr1 = 0x00#8 := by
      simpa [PacketView.isSignature] using h
    rcases p with ⟨_, _, _, _ | ⟨a0, _ | ⟨a1, _ | ⟨c0, _ | ⟨c1, _ | ⟨c2, _ | _⟩⟩⟩⟩⟩⟩
    case mp.cons.cons.cons.cons.cons.nil =>
      cases h0
      cases h1
      exact ⟨c0, c1, c2, rfl⟩
    all_goals simp at hlen
  · rintro ⟨c0, c1, c2, hd⟩
    rw [PacketView.isSignature, PacketView.hdr0, PacketView.hdr1, hd]
    rfl

/-- The seed a signature gives is the one register from which its header leads to the CRC it carries. -/
theorem foldl_fstep_eq_iff_seed (hd : p.data = [0x01#8, 0x00#8, c0, c1, c2]) (x : Crc) :
    (byteBits 0x01#8 ++ byteBits 0x00#8).foldl fstep x = le24 c0 c1 c2 ↔ x = p.seed := by
  have hseed : p.seed = crcReverse (le24 c0 c1 c2) [0x01#8, 0x00#8] := by
    rw [PacketView.seed, hd]
    exact congrArg (crcReverse · _) (wireCrc_append [0x01#8, 0x00#8] c0 c1 c2)
  have hforward : crcForward p.seed [0x01#8, 0x00#8] = le24 c0 c1 c2 := by rw [hseed, crcForward_crcReverse]
  rw [← hforward, crcForward_eq]
  exact (foldl_fstep_injective _).eq_iff

end Signature

/-- Settles O44: past the address gate `stage_crc` recovers the seed, which is the only one (`foldl_fstep_eq_iff_seed`). -/
theorem seedRecovered : Obligations.SeedRecovered := by
  intro buf s b c0 c1 c2 hag hb hq hst ha haa hbytes
  have hcrc : stageCrc s b s.pb[b].view =
      { state := s.recoverSeed s.pb[b].view, disposition := .accepted
        events := [.packet b true false s.aa s.pb[b].ts, .crc (rev24 s.pb[b].view.seed) s.pb[b].view.seed,
          .stage s.mode .hopIntervalRecovery s.lstate] } := by
    rw [← haa]
    exact if_pos (isSignature_iff.2 ⟨c0, c1, c2, hbytes⟩)
  refine ⟨s.pb[b].view.seed, rev24 s.pb[b].view.seed, ?_, foldl_fstep_eq_iff_seed hbytes,
    fun i hi => getLsbD_reverse_of_lt _ hi⟩
  rw [exec_prPkt_queued hag hb hq, intake_crcRecovery hst ha haa, hcrc]
  rfl

/-! ### `ConnectionFollow` (R277) -/

theorem stageHandler_follow {s : State} (hst : s.stage = .connectionFollow) (p : PacketView) :
    stageHandler s p = stageFollow s p := by
  rw [stageHandler, hst]

/-- The first packet after a connection request enters `CONNECTED`. -/
theorem stageFollow_first {s : State} (hst : s.stage = .connectionFollow) (hl : s.lstate = .connPending) (p : PacketView) :
    stageFollow s p =
      { state := { s with lastPktTs := p.ts, lstate := .connected, evcnt := 0, epochTs := p.ts }, disposition := .accepted
        events := [.stage s.mode .connectionFollow .connected] } := by
  rw [← hst]
  exact if_pos hl

/-- Settles O43: one equation for each gate, and the handler of `ConnectionFollow`. -/
theorem packetGatesAndFollow : Obligations.PacketGatesAndFollow := by
  refine ⟨fun buf s => exec_outOfDomain_proc (i := .prPkt buf) rfl, fun buf s b hag hb =>
    ⟨exec_prPkt_notQueued hag hb, fun hq hst => ?_, fun hq hst => ?_, fun hq hidle hdisc ha => ?_,
      fun hq hst ha haa hno => ?_, fun hq hst ha haa hon hbad => ?_, fun hst ha hg hl => ?_, fun hst ha hg hl => ?_⟩⟩
  · rw [exec_prPkt_away hag hb hq (intake_unhandledStage (.inl hst)), hst]
    rfl
  · rw [exec_prPkt_away hag hb hq (intake_unhandledStage (.inr hst)), hst]
    rfl
  · exact exec_prPkt_away hag hb hq (intake_otherAddress (not_or.2 ⟨hidle, hdisc⟩) ha)
  · have hcrc : stageCrc s b s.pb[b].view = { state := s, disposition := .noSignature, events := [] } :=
      if_neg fun h => by
        obtain ⟨c0, c1, c2, hd⟩ := isSignature_iff.1 h
        exact hno c0 c1 c2 hd
    rw [exec_prPkt_away hag hb hq ((intake_crcRecovery hst ha haa).trans hcrc), hst]
    rfl
  · exact exec_prPkt_away hag hb hq (intake_badCrc hst ha haa hon hbad)
  · have hfollow := (stageHandler_follow hst s.pb[b].view).trans (stageFollow_first hst hl _)
    exact exec_prPkt_handled hag hb (.inr (.inr hst)) ha hg hfollow hst
  · have hfollow := (stageHandler_follow hst s.pb[b].view).trans (if_neg hl)
    exact exec_prPkt_handled hag hb (.inr (.inr hst)) ha hg hfollow hst

/-! ### `HopIntervalRecovery`, outcome by outcome (R242, R246) -/

section Interval

variable {s : State} {p : PacketView}

theorem stageHandler_interval (hst : s.stage = .hopIntervalRecovery) (p : PacketView) :
    stageHandler s p = stageInterval s p := by
  rw [stageHandler, hst]

theorem stageInterval_shortGap (hgap : (p.ts - s.hiPrevTs).toNat < s.params.minGap) :
    stageInterval s p = { state := s, disposition := .shortGap, events := [] } :=
  if_pos hgap

/-- The estimate after a packet (R242). -/
def State.estimateAt (s : State) (p : PacketView) : Nat := estimate s.params (s.noteGap p).hiSmallest

/-- The estimate after a packet is the working one, and not 0. -/
abbrev State.Matches (s : State) (p : PacketView) : Prop := s.estimateAt p ≠ 0 ∧ s.estimateAt p = s.hiEst.toNat

/-- An estimate that differs from the working one, or is 0, replaces it, counted from 0. -/
theorem stageInterval_newEstimate (hgap : s.params.minGap ≤ (p.ts - s.hiPrevTs).toNat) (hnew : ¬s.Matches p) :
    stageInterval s p =
      { state := { s.noteGap p with hiEst := toHalf (s.estimateAt p), hiMatch := 0 }
        disposition := .accepted, events := [] } :=
  (if_neg (Nat.not_lt.2 hgap)).trans (if_neg hnew)

/-- The fifth match is the one after four. -/
theorem fifth_match_iff (v : Byte) : (toByte (v.toNat + 1)).toNat = Config.hiConsec ↔ v = 4 := by
  rw [toByte_succ, Config.hiConsec]
  constructor
  · intro h
    bv_omega
  · rintro rfl
    rfl

theorem stageInterval_matched (hgap : s.params.minGap ≤ (p.ts - s.hiPrevTs).toNat) (hsame : s.Matches p)
    (h4 : s.hiMatch ≠ 4) :
    stageInterval s p =
      { state := { s.noteGap p with hiMatch := s.hiMatch + 1 }, disposition := .accepted, events := [] } := by
  rw [← toByte_succ]
  exact (if_neg (Nat.not_lt.2 hgap)).trans ((if_pos hsame).trans (if_neg (mt (fifth_match_iff _).1 h4)))

theorem stageInterval_frozen (hgap : s.params.minGap ≤ (p.ts - s.hiPrevTs).toNat) (hsame : s.Matches p)
    (h4 : s.hiMatch = 4) :
    stageInterval s p =
      { state := { s.noteGap p with hiMatch := 5 }.freeze, disposition := .accepted
        events := [.interval s.hiEst, .stage s.mode .hopIncrementRecovery s.lstate] } := by
  have hfive : toByte (s.hiMatch.toNat + 1) = 5 := by rw [h4]; rfl
  rw [← hfive]
  exact (if_neg (Nat.not_lt.2 hgap)).trans ((if_pos hsame).trans (if_pos ((fifth_match_iff _).2 h4)))

end Interval

/-- Settles O45: the outcomes of `stage_interval`, behind the gates. -/
theorem intervalStep : Obligations.IntervalStep := by
  intro buf s b gap sm est pk hag hb hst ha hg hgap hsm hest hpk
  subst hpk hgap hest hsm
  have runs {h : Handled} {st : Stage} (hh : stageInterval s s.pb[b].view = h) :=
    exec_prPkt_handled (st := st) hag hb (.inl hst) ha hg ((stageHandler_interval hst _).trans hh)
  refine ⟨fun hshort => ?_, fun hlong hnew => ?_, fun hlong h0 heq h4 => ?_, fun hlong h0 heq h4 => ?_⟩
  · exact runs (stageInterval_shortGap hshort) hst
  · exact runs (stageInterval_newEstimate hlong fun h => hnew.elim h.1 fun hne => hne h.2) hst
  · exact runs (stageInterval_matched hlong ⟨h0, heq⟩ h4) hst
  · exact runs (stageInterval_frozen hlong ⟨h0, heq⟩ h4) rfl

/-! ### Packets that agree on an interval (R242, R245, R246) -/

theorem arrivals_append (s : State) (ps qs : List Buffer) :
    arrivals s (ps ++ qs) = andThen (arrivals s ps) fun t => arrivals t qs := by
  induction ps generalizing s with
  | nil => rfl
  | cons p ps ih =>
    rw [List.cons_append, arrivals, arrivals]
    cases arrive s p with
    | next t => exact ih t
    | fault e => rfl
    | refused e => rfl

/-- What `n` matches of the estimate `est` leave: the stage machine still in `HopIntervalRecovery`, `n` counted, the gates and the
rest of what the recovery reads as they were (R242). -/
structure Converging (s : State) (est n : Nat) (t : State) : Prop where
  stage : t.stage = .hopIntervalRecovery
  aaValid : t.aaValid = true
  aa : t.aa = s.aa
  crcVerify : t.crcVerify = s.crcVerify
  crcLfsr : t.crcLfsr = s.crcLfsr
  params : t.params = s.params
  intervalValid : t.intervalValid = s.intervalValid
  chan : t.chan = s.chan
  count : t.hiMatch.toNat = n
  working : t.hiEst.toNat = est

theorem Converging.passesGates {s t : State} {est n : Nat} {p : Buffer} (h : Converging s est n t) (hg : p.passesGates s) :
    p.passesGates t := by
  rwa [Buffer.passesGates, h.aa, h.crcVerify, h.crcLfsr]

section Agreement

variable {s t : State} {p : Buffer} {ps qs : List Buffer} {est n : Nat}

/-- The packets still to come agree with the gap and the smallest gap that a state holds. -/
abbrev State.Agreeing (t : State) (est : Nat) (ps : List Buffer) : Prop := agreeing t.params est t.hiPrevTs t.hiSmallest ps

/-- A packet past both gates in `HopIntervalRecovery` leaves what the stage's handler leaves (R237, R242). -/
theorem arrive_interval {h : Handled} (hst : s.stage = .hopIntervalRecovery) (ha : s.aaValid = true)
    (hg : p.passesGates s) (hh : stageInterval (s.presenting p) p.view = h) :
    ∃ r, arrive s p = .next (h.state.answer r) := by
  have hbuf := s.presenting_buf p
  have hgate : (s.presenting p).pb[(0 : Fin 4)].passesGates (s.presenting p) := by rwa [hbuf]
  have hstage : stageHandler (s.presenting p) (s.presenting p).pb[(0 : Fin 4)].view = h := by
    rw [hbuf]
    exact (stageHandler_interval (s := s.presenting p) hst _).trans hh
  exact ⟨_, exec_prPkt_handled (s := s.presenting p) (buf := 0) (b := 0) rfl rfl (.inl hst) ha hgate hstage rfl⟩

theorem estimateAt_le (s : State) (p : PacketView) : s.estimateAt p ≤ 65535 := Nat.min_le_right ..

/-- The first packet of a run replaces the working estimate. -/
theorem arrive_newEstimate (hst : s.stage = .hopIntervalRecovery) (ha : s.aaValid = true) (hg : p.passesGates s)
    (hnew : est ≠ s.hiEst.toNat) (hagree : s.Agreeing est (p :: qs)) :
    ∃ t, arrive s p = .next t ∧ Converging s est 0 t ∧ t.Agreeing est qs := by
  obtain ⟨hgap, hest, hrest⟩ := hagree
  have hat : (s.presenting p).estimateAt p.view = est := hest
  obtain ⟨r, hr⟩ := arrive_interval hst ha hg
    (stageInterval_newEstimate (s := s.presenting p) hgap fun h => hnew (hat.symm.trans h.2))
  have hfits : est ≤ 65535 := hat ▸ estimateAt_le _ _
  have hworking : (toHalf est).toNat = est := by
    rw [toHalf, BitVec.toNat_ofNat]
    omega
  rw [hat] at hr
  refine ⟨_, hr, ?_, ?_⟩
  · constructor
    all_goals simp [State.noteGap, State.presenting, hst, ha, hworking]
  · simpa [State.Agreeing, State.noteGap, State.presenting, Buffer.view] using hrest

/-- A packet that gives the working estimate once more. -/
theorem Converging.agrees (h : Converging s est n t) (h0 : est ≠ 0) (hest : (t.presenting p).estimateAt p.view = est) :
    (t.presenting p).Matches p.view :=
  ⟨fun hz => h0 (hest.symm.trans hz), hest.trans h.working.symm⟩

/-- Up to the fourth match nothing is frozen. -/
theorem Converging.again (h : Converging s est n t) (hn : n < 4) (h0 : est ≠ 0) (hg : p.passesGates s)
    (hagree : t.Agreeing est (p :: qs)) :
    ∃ u, arrive t p = .next u ∧ Converging s est (n + 1) u ∧ u.Agreeing est qs := by
  obtain ⟨hgap, hest, hrest⟩ := hagree
  have hsame := h.agrees h0 hest
  have hcount := h.count
  have h4 : t.hiMatch ≠ 4 := by
    intro hm
    rw [hm] at hcount
    exact absurd hcount (by simp; omega)
  obtain ⟨r, hr⟩ := arrive_interval h.stage h.aaValid (h.passesGates hg)
    (stageInterval_matched (s := t.presenting p) hgap hsame h4)
  have hsucc : (t.hiMatch + 1#8).toNat = n + 1 := by bv_omega
  refine ⟨_, hr, ?_, ?_⟩
  · obtain ⟨hst, ha, haa, hcv, hcrc, hparams, hiv, hchan, -, hworking⟩ := h
    constructor
    all_goals
      simp [State.noteGap, State.presenting, -BitVec.toNat_add, hst, ha, haa, hcv, hcrc, hparams, hiv, hchan, hsucc, hworking]
  · simpa [State.Agreeing, State.noteGap, State.presenting, Buffer.view] using hrest

/-- The fifth match freezes the interval and tunes `PROBE_A` (R246, R247). -/
theorem Converging.freezes (h : Converging s est 4 t) (h0 : est ≠ 0) (hg : p.passesGates s) (hagree : t.Agreeing est [p]) :
    ∃ u, arrive t p = .next u ∧ u.stage = .hopIncrementRecovery ∧ u.interval.toNat = est ∧ u.intervalValid = true ∧
      u.chan = s.params.probeA ∧ u.rtChan = s.params.probeA ∧ u.rtPending = true := by
  obtain ⟨hgap, hest, -⟩ := hagree
  have hsame := h.agrees h0 hest
  obtain ⟨r, hr⟩ := arrive_interval h.stage h.aaValid (h.passesGates hg)
    (stageInterval_frozen (s := t.presenting p) hgap hsame (BitVec.eq_of_toNat_eq h.count))
  exact ⟨_, hr, rfl, h.working, rfl, congrArg Params.probeA h.params, congrArg Params.probeA h.params, rfl⟩

/-- By induction on the packets of the run. -/
theorem Converging.run (h : Converging s est n t) (hn : n + ps.length ≤ 4) (h0 : est ≠ 0) (hg : ∀ p ∈ ps, p.passesGates s)
    (hagree : t.Agreeing est (ps ++ qs)) :
    ∃ u, arrivals t ps = .next u ∧ Converging s est (n + ps.length) u ∧ u.Agreeing est qs := by
  induction ps generalizing n t with
  | nil => exact ⟨t, rfl, h, hagree⟩
  | cons p ps ih =>
    rw [List.length_cons] at hn
    obtain ⟨hp, hps⟩ := List.forall_mem_cons.1 hg
    obtain ⟨v, hv, hmore, hrest⟩ := h.again (by omega) h0 hp hagree
    obtain ⟨u, hu, hrun⟩ := ih hmore (by omega) hps hrest
    refine ⟨u, ?_, ?_⟩
    · rw [arrivals, hv]
      exact hu
    · rwa [List.length_cons, Nat.add_comm ps.length, ← Nat.add_assoc]

/-- One to five packets of a run: the first sets the estimate, the others match it. -/
theorem arrivals_converging (hst : s.stage = .hopIntervalRecovery) (ha : s.aaValid = true) (h0 : est ≠ 0)
    (hnew : est ≠ s.hiEst.toNat) (hg : ∀ p ∈ ps, p.passesGates s) (hpos : 1 ≤ ps.length) (hle : ps.length ≤ 5)
    (hagree : s.Agreeing est (ps ++ qs)) :
    ∃ t, arrivals s ps = .next t ∧ Converging s est (ps.length - 1) t ∧ t.Agreeing est qs := by
  cases ps with
  | nil => cases hpos
  | cons p ps =>
    rw [List.length_cons] at hle
    obtain ⟨hp, hps⟩ := List.forall_mem_cons.1 hg
    obtain ⟨v, hv, hfirst, hrest⟩ := arrive_newEstimate hst ha hp hnew hagree
    obtain ⟨t, ht, hrun⟩ := hfirst.run (by omega) h0 hps hrest
    refine ⟨t, ?_, ?_⟩
    · rw [arrivals, hv]
      exact ht
    · rwa [Nat.zero_add] at hrun

end Agreement

/-- Settles O46: the packets up to the fifth count matches (`arrivals_converging`), and the sixth is the fifth match. -/
theorem intervalConverges : Obligations.IntervalConverges := by
  intro s ps est hst ha hlen hg h0 hnew hagree
  have runs (k : Nat) (h1 : 1 ≤ k) (h5 : k ≤ 5) :
      ∃ t, arrivals s (ps.take k) = .next t ∧ Converging s est (k - 1) t ∧ t.Agreeing est (ps.drop k) := by
    have hk : (ps.take k).length = k := by
      rw [List.length_take]
      omega
    have hrun := arrivals_converging (ps := ps.take k) (qs := ps.drop k) hst ha h0 hnew
      (fun p hp => hg p (List.mem_of_mem_take hp)) (by omega) (by omega) (by rwa [List.take_append_drop])
    rwa [hk] at hrun
  refine ⟨fun k h1 h5 => ?_, ?_⟩
  · obtain ⟨t, ht, hconv, -⟩ := runs k h1 h5
    exact ⟨t, ht, hconv.stage, hconv.count, hconv.working, hconv.intervalValid, hconv.chan⟩
  · obtain ⟨t, ht, hconv, hlast⟩ := runs 5 (by decide) le_rfl
    obtain ⟨q, hq⟩ : ∃ q, ps.drop 5 = [q] := List.length_eq_one_iff.1 (by rw [List.length_drop, hlen])
    rw [hq] at hlast
    have hmem : q ∈ ps := List.mem_of_mem_drop (i := 5) (by rw [hq]; exact List.mem_cons_self)
    obtain ⟨u, hu, hfrozen⟩ := hconv.freezes h0 (hg q hmem) hlast
    refine ⟨u, ?_, hfrozen⟩
    rw [← List.take_append_drop 5 ps, arrivals_append, ht, hq, andThen, arrivals, hu, andThen, arrivals]

end Sys2Proof.Machine
end

section
/-! PROOFS. The control operations of Parameter Recovery (R231 to R236), its reports and settings with `LS_FILTER` (R255 to
R259, R273), and `TICK` (R260, R288). -/

namespace Sys2Proof.Machine

/-! ### Start, stop, re-seed and track (R231 to R236) -/

section Control

variable {s : State}

theorem exec_prStart {ch : Byte} (hag : s.agent = .proc) (hch : ch.toNat ≤ 39) : exec (.prStart ch) s =
    if s.mode = .off then .next ((s.startDiscovery ch).answer { events := [.stage .promisc .discovery .listening] })
    else .next (s.answer (errorResponse .badState)) := by
  have hrun : exec (.prStart ch) s = execPrStart ch s := rfl
  rw [hrun, execPrStart, served_proc rfl hag, badChan_false.2 hch]
  rfl

/-- An operation that only `PROMISC` mode allows, in that mode. -/
theorem served_inPromisc {op : Op} {u : State} {r : Response} (hproc : rights op = .procOnly) (hag : s.agent = .proc)
    (hm : s.mode = .promisc) :
    served op s (if s.mode = .promisc then reply u r else raise s .badState) = .next (u.answer r) := by
  rw [served_proc hproc hag, if_pos hm]
  rfl

theorem served_notInPromisc {op : Op} {u : State} {r : Response} (hproc : rights op = .procOnly) (hag : s.agent = .proc)
    (hm : s.mode ≠ .promisc) :
    served op s (if s.mode = .promisc then reply u r else raise s .badState) =
      .next (s.answer (errorResponse .badState)) := by
  rw [served_proc hproc hag, if_neg hm]
  rfl

theorem reseedEvents_eq (s : State) (reason : ReseedReason) :
    reseedEvents s reason = [.reseed reason, .stage s.mode .discovery .listening] := rfl

end Control

/-- Settles O41: the domain check, the mode check, and the state of `startDiscovery` and `shutDown`. -/
theorem prStartAndStopResult : Obligations.PrStartAndStopResult := by
  refine ⟨fun ch s hag => ⟨exec_outOfDomain_proc (i := .prStart ch) rfl hag, fun hch hm => ?_, fun hch hm => ?_⟩,
    fun s hag => ⟨fun hm => ?_, fun hm => ?_⟩⟩
  · exact (exec_prStart hag hch).trans (if_neg hm)
  · exact (exec_prStart hag hch).trans (if_pos hm)
  · exact served_notInPromisc (op := .prStop) rfl hag hm
  · exact served_inPromisc (op := .prStop) rfl hag hm

/-- Settles O42: `forget` and `reseeded` are these updates, and behind the mode check the operations leave them. -/
theorem reseedAndSetaaResult : Obligations.ReseedAndSetaaResult := by
  refine ⟨fun s => rfl, fun s => rfl, fun s hag => ⟨fun hm => ?_, fun hm => ?_⟩, fun aa s hag => ⟨fun hm => ?_, fun hm => ?_⟩⟩
  · exact served_notInPromisc (op := .prReseed) rfl hag hm
  · rw [← hm, ← reseedEvents_eq]
    exact served_inPromisc (op := .prReseed) rfl hag hm
  · exact served_notInPromisc (op := .prSetaa) rfl hag hm
  · rw [← hm]
    exact served_inPromisc (op := .prSetaa) rfl hag hm

/-! ### Reports (R255, R256, R258) -/

/-- A number cut in two, the lower part in `n` bits. -/
theorem ofNat_append_ofNat (m : Nat) {n a b : Nat} (hb : b < 2 ^ n) :
    BitVec.ofNat m a ++ BitVec.ofNat n b = BitVec.ofNat (m + n) (a * 2 ^ n + b) := by
  apply BitVec.eq_of_toNat_eq
  have hlow : (a * 2 ^ n + b) % 2 ^ n = b := by rw [Nat.mul_add_mod_self_right, Nat.mod_eq_of_lt hb]
  have hhigh : (a * 2 ^ n + b) / 2 ^ n = a := by
    rw [Nat.add_comm, Nat.add_mul_div_right _ _ (by positivity), Nat.div_eq_of_lt hb, Nat.zero_add]
  rw [BitVec.toNat_append, BitVec.toNat_ofNat, BitVec.toNat_ofNat, BitVec.toNat_ofNat, Nat.mod_eq_of_lt hb,
    ← Nat.shiftLeft_add_eq_or_of_lt hb, Nat.shiftLeft_eq, Nat.add_comm m, Nat.pow_add, Nat.mod_mul, hlow, hhigh]
  ring

theorem ofBool_eq_ofNat (b : Bool) : BitVec.ofBool b = BitVec.ofNat 1 (bit b) := by
  cases b <;> rfl

theorem bit_le (b : Bool) : bit b ≤ 1 := by
  cases b <;> decide

theorem Mode.code_le (m : Mode) : m.code ≤ 2 := by
  cases m <;> decide

theorem Stage.code_le (st : Stage) : st.code ≤ 5 := by
  cases st <;> decide

theorem LState.code_le (l : LState) : l.code ≤ 3 := by
  cases l <;> decide

/-- The flags of `PR_GET`, field by field from the top (R255). -/
theorem flagHalf_eq_fields (s : State) :
    flagHalf s = 0#2 ++ (BitVec.ofBool s.updPending ++ (BitVec.ofBool s.hopincValid ++ (BitVec.ofBool s.intervalValid ++
      (BitVec.ofBool s.crcVerify ++ (BitVec.ofBool s.crcVerified ++ (BitVec.ofBool s.aaValid ++ (0#1 ++
      (BitVec.ofNat 2 s.lstate.code ++ (BitVec.ofNat 3 s.stage.code ++ BitVec.ofNat 2 s.mode.code))))))))) := by
  have hmode := s.mode.code_le
  have hstage := s.stage.code_le
  have hlstate := s.lstate.code_le
  have h1 := bit_le s.aaValid
  have h2 := bit_le s.crcVerified
  have h3 := bit_le s.crcVerify
  have h4 := bit_le s.intervalValid
  have h5 := bit_le s.hopincValid
  have h6 := bit_le s.updPending
  simp only [ofBool_eq_ofNat]
  rw [ofNat_append_ofNat 3 (by omega), ofNat_append_ofNat 2 (by omega), ofNat_append_ofNat 1 (by omega),
    ofNat_append_ofNat 1 (by omega), ofNat_append_ofNat 1 (by omega), ofNat_append_ofNat 1 (by omega),
    ofNat_append_ofNat 1 (by omega), ofNat_append_ofNat 1 (by omega), ofNat_append_ofNat 1 (by omega),
    ofNat_append_ofNat 2 (by omega), flagHalf, toHalf]
  exact congrArg (BitVec.ofNat 16) (by omega)

section Reports

variable {s : State}

theorem crcWord_orZero (valid : Bool) (c : Crc) : crcWord (orZero valid c) = if valid then c.setWidth 32 else 0 := by
  cases valid <;> rfl

theorem orZero_following {w : Nat} (s : State) (v : BitVec w) :
    orZero (following s) v = if s.stage = .connectionFollow then v else 0 := by
  simp [orZero, following]

theorem exec_prGetaa (hag : s.agent = .proc) : exec .prGetaa s =
    if s.aaValid then .next (s.answer { ra := 1, words := [s.aa] }) else .next (s.answer { ra := 0, words := [0] }) :=
  served_proc (op := .prGetaa) rfl hag

end Reports

/-- Settles O49: the words of `reportWords`, the flags among them by `flagHalf_eq_fields`. -/
theorem reportsResult : Obligations.ReportsResult := by
  refine ⟨fun s hag => ?_, fun s hag => ⟨fun hv => ?_, fun hv => ?_, ?_⟩⟩
  · rw [← flagHalf_eq_fields, ← crcWord_orZero, ← crcWord_orZero, ← orZero_following, ← orZero_following]
    exact served_proc (op := .prGet) rfl hag
  · rw [exec_prGetaa hag, hv]
    rfl
  · rw [exec_prGetaa hag, hv]
    rfl
  · have hbit (b : Bool) : toByte (bit b) = if b then 1 else 0 := by cases b <;> rfl
    have hbit' (b : Bool) : toHalf (bit b) = if b then 1 else 0 := by cases b <;> rfl
    rw [← hbit, ← hbit']
    exact served_proc (op := .prGetcv) rfl hag

/-! ### Settings (R257, R259, R273) -/

section Settings

variable {s : State}

theorem exec_prSetcv {on : Byte} (hag : s.agent = .proc) (hon : on.toNat ≤ 1) :
    exec (.prSetcv on) s = .next (State.answer { s with crcVerify := on == 1#8 } {}) := by
  have hrun : exec (.prSetcv on) s = execPrSetcv on s := rfl
  rw [hrun, execPrSetcv, served_proc rfl hag, if_neg (Nat.not_lt.2 hon)]
  rfl

theorem exec_prSetto {which : Byte} {ticks : Word} {u : State} (hag : s.agent = .proc)
    (hu : s.setTimeout which.toNat ticks = some u) : exec (.prSetto which ticks) s = .next (u.answer {}) := by
  have hrun : exec (.prSetto which ticks) s = execPrSetto which ticks s := rfl
  rw [hrun, execPrSetto, served_proc rfl hag, hu]
  rfl

end Settings

/-- Settles O50: the operand's domain first, then the one register written. -/
theorem settersResult : Obligations.SettersResult := by
  refine ⟨fun on s hag => ⟨exec_outOfDomain_proc (i := .prSetcv on) rfl hag, fun hon => ?_⟩, fun which ticks s hag =>
    ⟨exec_outOfDomain_proc (i := .prSetto which ticks) rfl hag, fun h => ?_, fun h => ?_, fun h => ?_⟩,
    fun addr mask s hag => ?_⟩
  · have hswitch : (on == 1#8) = decide (on.toNat = 1) := by
      rw [Bool.eq_iff_iff, beq_iff_eq, decide_eq_true_iff]
      exact BitVec.toNat_eq
    rw [exec_prSetcv hag hon, hswitch]
  · exact exec_prSetto hag (by rw [h]; rfl)
  · exact exec_prSetto hag (by rw [h]; rfl)
  · exact exec_prSetto hag (by rw [h]; rfl)
  · exact served_proc (op := .lsFilter) rfl hag

/-! ### `TICK` (R260, R288) -/

section Tick

variable {s : State} {now : Ts}

theorem exec_tick_off (hag : s.agent = .proc) (hm : s.mode = .off) : exec (.tick now) s = .next (s.answer {}) :=
  (served_proc (op := .tick) rfl hag).trans (if_pos hm)

theorem exec_tick_passed {u : State} {events : List Event} (hag : s.agent = .proc) (hm : s.mode ≠ .off)
    (hu : timeouts (s.latch now) now = some (u, events)) :
    exec (.tick now) s = .next (u.answer { ra := 1, events := events }) := by
  have hrun : exec (.tick now) s = execTick now s := rfl
  rw [hrun, execTick, served_proc rfl hag, if_neg hm, hu]
  rfl

theorem exec_tick_running (hag : s.agent = .proc) (hm : s.mode ≠ .off) (hu : timeouts (s.latch now) now = none) :
    exec (.tick now) s = .next ((s.latch now).answer {}) := by
  have hrun : exec (.tick now) s = execTick now s := rfl
  rw [hrun, execTick, served_proc rfl hag, if_neg hm, hu]
  rfl

/-- The comparison is strict, and a limit of 0 is none (R41, R260). -/
theorem expired_iff {limit el : Ts} : expired limit el = true ↔ limit ≠ 0 ∧ limit < el := by
  simp [expired, BitVec.lt_def]

theorem not_expired_iff {limit el : Ts} : ¬expired limit el = true ↔ limit = 0 ∨ el ≤ limit := by
  rw [expired_iff, not_and_or, not_ne_iff, BitVec.not_lt]

section Timeouts

variable {el : Ts}

theorem timeouts_discovery (hst : s.stage = .discovery) (hel : el = now - s.stageTs) : timeouts s now =
    if expired s.discTimeout el then
      some (s.reseeded, [.timeout .discovery el, .reseed .discoveryTimeout, .stage s.mode .discovery .listening])
    else none := by
  subst hel
  simp [timeouts, hst, Stage.recovering, tdiff, reseedEvents_eq]

theorem timeouts_recovering (hst : s.stage.recovering = true) (hel : el = now - s.stageTs) : timeouts s now =
    if expired s.recovTimeout el then
      some (s.reseeded, [.timeout .recovery el, .reseed .recoveryTimeout, .stage s.mode .discovery .listening])
    else none := by
  have hdisc : s.stage ≠ .discovery := by
    intro h
    simp [h, Stage.recovering] at hst
  have hfollow : s.stage ≠ .connectionFollow := by
    intro h
    simp [h, Stage.recovering] at hst
  subst hel
  simp [timeouts, hst, hdisc, hfollow, tdiff, reseedEvents_eq]

theorem timeouts_following (hst : s.stage = .connectionFollow) (hel : el = now - s.lastPktTs) : timeouts s now =
    if s.connTimeout < el then some (s.unlink, .timeout .inactivity el :: unlinkEvents s .inactivity) else none := by
  subst hel
  simp [timeouts, hst, Stage.recovering, tdiff, BitVec.lt_def]

theorem timeouts_idle (hst : s.stage = .idle) : timeouts s now = none := by
  simp [timeouts, hst, Stage.recovering]

end Timeouts

end Tick

/-- Settles O51: one equation of `timeouts` for each kind of stage, on the state whose start is latched. -/
theorem tickResult : Obligations.TickResult := by
  intro now s s1 el idle hag hs1 hel hidle
  obtain rfl : s1 = s.latch now := hs1
  have passed {u : State} {events : List Event} := exec_tick_passed (s := s) (now := now) (u := u) (events := events) hag
  have running := exec_tick_running (s := s) (now := now) hag
  refine ⟨exec_tick_off hag, fun hm hst => ?_, fun hm hst => ?_, fun hm hst => ?_, fun hm hst => ?_⟩
  · have run := timeouts_discovery (s := s.latch now) (now := now) hst hel
    exact ⟨fun hout => passed hm (run.trans (if_pos (expired_iff.2 hout))),
      fun hin => running hm (run.trans (if_neg (not_expired_iff.2 hin)))⟩
  · have hrecovering : (s.latch now).stage.recovering = true := by
      rw [State.latch_stage]
      rcases hst with h | h | h
      all_goals
        rw [h]
        rfl
    have run := timeouts_recovering (s := s.latch now) (now := now) hrecovering hel
    exact ⟨fun hout => passed hm (run.trans (if_pos (expired_iff.2 hout))),
      fun hin => running hm (run.trans (if_neg (not_expired_iff.2 hin)))⟩
  · have run := timeouts_following (s := s.latch now) (now := now) hst hidle
    refine ⟨fun hout hp => ?_, fun hout hf => ?_, fun hin => running hm (run.trans (if_neg (BitVec.not_lt.2 hin)))⟩
    · have left := passed hm (run.trans (if_pos hout))
      rw [State.unlink, unlinkEvents, State.latch_mode, hp, reseedEvents_eq, State.latch_mode, hp] at left
      exact left
    · have left := passed hm (run.trans (if_pos hout))
      rw [State.unlink, unlinkEvents, State.latch_mode, hf] at left
      exact left
  · exact running hm (timeouts_idle hst)

end Sys2Proof.Machine
end

section
/-! PROOFS. The operations of the Connection Link State and of the retune mailbox (R271 to R275, R282 to R285, R290, R291). -/

namespace Sys2Proof.Machine

/-! ### Follow, stop and cancel (R271, R272, R290) -/

section Control

variable {s : State}

theorem exec_lsFollow {ch : Byte} (hag : s.agent = .proc) (hlow : 37 ≤ ch.toNat) (hhigh : ch.toNat ≤ 39) :
    exec (.lsFollow ch) s =
      if s.mode = .off then .next ((s.startFollow ch).answer { events := [.stage .follow .idle .listening] })
      else .next (s.answer (errorResponse .badState)) := by
  have hrun : exec (.lsFollow ch) s = execLsFollow ch s := rfl
  rw [hrun, execLsFollow, served_proc rfl hag, if_neg (by omega)]
  rfl

theorem exec_lsStop (hag : s.agent = .proc) : exec .lsStop s =
    if s.mode = .follow then .next (s.shutDown.answer { events := [.stage .off .idle .inactive] })
    else .next (s.answer (errorResponse .badState)) :=
  served_proc (op := .lsStop) rfl hag

theorem exec_lsCancel (hag : s.agent = .proc) : exec .lsCancel s =
    if s.mode = .off then .next (s.answer { ra := 0 })
    else .next (s.unlink.answer { ra := 1, events := unlinkEvents s .cancel }) :=
  served_proc (op := .lsCancel) rfl hag

theorem exec_lsCancel_promisc (hag : s.agent = .proc) (hm : s.mode = .promisc) : exec .lsCancel s =
    .next (s.reseeded.answer { ra := 1, events := [.reseed .cancel, .stage .promisc .discovery .listening] }) := by
  rw [exec_lsCancel hag, if_neg (by simp [hm]), State.unlink, if_pos hm, unlinkEvents, if_pos hm, reseedEvents_eq, hm]

theorem exec_lsCancel_follow (hag : s.agent = .proc) (hm : s.mode = .follow) : exec .lsCancel s =
    .next (s.shutDown.answer { ra := 1, events := [.stage .off .idle .inactive] }) := by
  have hpromisc : s.mode ≠ .promisc := by simp [hm]
  rw [exec_lsCancel hag, if_neg (by simp [hm]), State.unlink, if_neg hpromisc, unlinkEvents, if_neg hpromisc]
  rfl

end Control

/-- Settles O52: the domain check, the mode check, and the states of `startFollow`, `shutDown` and `reseeded`. -/
theorem lsFollowStopCancelResult : Obligations.LsFollowStopCancelResult := by
  refine ⟨fun ch s hag => ⟨exec_outOfDomain_proc (i := .lsFollow ch) rfl hag, fun hlow hhigh hm => ?_,
    fun hlow hhigh hm => ?_⟩, fun s hag => ⟨fun hm => ?_, fun hm => ?_, fun hm => ?_, exec_lsCancel_promisc hag,
    exec_lsCancel_follow hag⟩⟩
  · exact (exec_lsFollow hag hlow hhigh).trans (if_neg hm)
  · exact (exec_lsFollow hag hlow hhigh).trans (if_pos hm)
  · exact (exec_lsStop hag).trans (if_neg hm)
  · exact (exec_lsStop hag).trans (if_pos hm)
  · exact (exec_lsCancel hag).trans (if_pos hm)

/-! ### A connection request (R274, R275) -/

section Request

variable {s : State} {init adv : Addr48}

/-- A request passes when at least one of its addresses agrees with the target under the mask (R274). -/
theorem passes_iff :
    passes s init adv = true ↔ (init ^^^ s.filtAddr) &&& s.filtMask = 0 ∨ (adv ^^^ s.filtAddr) &&& s.filtMask = 0 := by
  simp [passes, hit]

/-- The first data channel is the increment itself: the hop from channel 0 does not wrap (R278). -/
theorem dataChan_first {hopinc : Byte} (h : hopinc.toNat ≤ 36) : dataChan (0 + hopinc.toNat) = hopinc := by
  apply BitVec.eq_of_toNat_eq
  rw [dataChan_toNat, Nat.zero_add, Nat.mod_eq_of_lt (by omega)]

/-- A connection request kept, with its increment in the domain of R275. -/
theorem State.connect_eq {q : ConnRequest} (hinc : q.hopinc.toNat ≤ 36) : s.connect q =
    { s with
      aa := q.aa, aaValid := true, crcRaw := q.crc, crcLfsr := rev24 q.crc, crcVerified := true, crcVerify := true
      winSize := q.winSize, winOffset := q.winOffset, interval := q.interval, intervalValid := true
      hopinc := q.hopinc, hopincValid := true, updPending := false, evcnt := 0, lastPktTs := q.ts
      chan := q.hopinc, rtChan := q.hopinc, rtPending := true
      lstate := .connPending, stage := .connectionFollow, stageTsValid := false } := by
  rw [State.connect, dataChan_first hinc]
  rfl

theorem connectEvents_eq (q : ConnRequest) : connectEvents s q =
    [.aa q.aa .request, .crc q.crc (rev24 q.crc), .interval q.interval, .hopinc q.hopinc,
      .stage s.mode .connectionFollow .connPending] := rfl

theorem exec_lsConnreq {q : ConnRequest} (hag : s.agent = .proc) (hinc : q.hopinc.toNat ≤ 36) :
    exec (.lsConnreq q.hopinc q.aa q.crc q.winSize q.winOffset q.interval q.ts init adv) s =
      if s.mode ≠ .follow ∨ s.lstate ≠ .listening then .next (s.answer (errorResponse .badState))
      else if passes s init adv then
        .next ((s.connect q).answer { ra := 1, rb := (s.connect q).chan.setWidth 16, events := connectEvents s q })
      else .next (s.answer { ra := 0 }) :=
  (served_proc (op := .lsConnreq) rfl hag).trans (if_neg (Nat.not_lt.2 hinc))

end Request

/-- Settles O53: the domain check, the state check, the filter by `passes_iff`, and the state of `connect`. -/
theorem lsConnreqResult : Obligations.LsConnreqResult := by
  intro hopinc aa crc winSize winOffset interval ts init adv s hag
  have run := exec_lsConnreq (q := ⟨hopinc, aa, crc, winSize, winOffset, interval, ts⟩) (init := init) (adv := adv) hag
  have inState (hm : s.mode = .follow) (hl : s.lstate = .listening) : ¬(s.mode ≠ .follow ∨ s.lstate ≠ .listening) := by
    simp [hm, hl]
  refine ⟨exec_outOfDomain_proc (i := .lsConnreq hopinc aa crc winSize winOffset interval ts init adv) rfl hag,
    fun hinc hstate => (run hinc).trans (if_pos hstate), fun hinc hm hl hinit hadv => ?_, fun hinc hm hl hpass => ?_⟩
  · have hfails : ¬passes s init adv = true := mt passes_iff.1 (not_or.2 ⟨hinit, hadv⟩)
    exact (run hinc).trans ((if_neg (inState hm hl)).trans (if_neg hfails))
  · have taken := (run hinc).trans ((if_neg (inState hm hl)).trans (if_pos (passes_iff.2 hpass)))
    rw [connectEvents_eq, hm, State.connect_eq hinc] at taken
    exact taken

/-! ### Updates and connection events (R282 to R284) -/

section Events

variable {s : State}

theorem exec_lsUpdate {winSize : Byte} {instant interval winOffset : Half} (hag : s.agent = .proc) :
    exec (.lsUpdate winSize instant interval winOffset) s =
      if s.lstate = .connected then .next (State.answer
        { s with
          updWinSize := winSize, updWinOffset := winOffset, updInterval := interval, updInstant := instant, updPending := true }
        { rb := s.evcnt })
      else .next (s.answer (errorResponse .badState)) :=
  served_proc (op := .lsUpdate) rfl hag

theorem State.countEvent_eq (s : State) : s.countEvent = { s with evcnt := s.evcnt + 1 } := by
  rw [State.countEvent, toHalf_succ]

/-- The record is due when the counter, this event counted, equals its instant (R283, R285). -/
theorem updateDue_countEvent_iff : s.countEvent.updateDue = true ↔ s.updPending = true ∧ s.evcnt + 1 = s.updInstant := by
  rw [State.countEvent_eq, State.updateDue, Bool.and_eq_true, beq_iff_eq]

theorem exec_lsEvent_badState (hag : s.agent = .cap) (hl : s.lstate ≠ .connected) :
    exec .lsEvent s = .next (s.answer (errorResponse .badState)) :=
  (served_cap (op := .lsEvent) rfl hag).trans (if_neg hl)

/-- A connection event in which the pending record takes effect (R283, R284). -/
theorem exec_lsEvent_due (hag : s.agent = .cap) (hl : s.lstate = .connected) (hp : s.updPending = true)
    (hi : s.evcnt + 1 = s.updInstant) :
    exec .lsEvent s = .next (State.answer ({ s with evcnt := s.evcnt + 1 } : State).applyUpdate.hop
      { ra := s.hop.chan, rb := s.evcnt + 1, words := [1],
        events := [.update s.updInterval s.updWinSize s.updWinOffset (s.evcnt + 1)] }) := by
  rw [← State.countEvent_eq, ← toHalf_succ]
  exact (served_cap (op := .lsEvent) rfl hag).trans
    ((if_pos hl).trans (if_pos (updateDue_countEvent_iff.2 ⟨hp, hi⟩)))

/-- A connection event that only counts and hops (R283). -/
theorem exec_lsEvent_notDue (hag : s.agent = .cap) (hl : s.lstate = .connected)
    (h : ¬(s.updPending = true ∧ s.evcnt + 1 = s.updInstant)) :
    exec .lsEvent s = .next (State.answer ({ s with evcnt := s.evcnt + 1 } : State).hop
      { ra := s.hop.chan, rb := s.evcnt + 1, words := [0] }) := by
  rw [← State.countEvent_eq, ← toHalf_succ]
  exact (served_cap (op := .lsEvent) rfl hag).trans ((if_pos hl).trans (if_neg (mt updateDue_countEvent_iff.1 h)))

end Events

/-- Settles O54: the state check, then whether the record is due decides which of the two events it is. -/
theorem lsUpdateAndEventResult : Obligations.LsUpdateAndEventResult := by
  refine ⟨fun winSize instant interval winOffset s hag => ⟨fun hl => ?_, fun hl => ?_⟩, fun s c hag hc => ?_⟩
  · exact (exec_lsUpdate hag).trans (if_neg hl)
  · exact (exec_lsUpdate hag).trans (if_pos hl)
  · subst hc
    refine ⟨exec_lsEvent_badState hag, exec_lsEvent_due hag, fun hl h => exec_lsEvent_notDue hag hl ?_⟩
    rintro ⟨hp, hi⟩
    exact h.elim (fun hf => Bool.false_ne_true (hf.symm.trans hp)) (absurd hi)

/-! ### The instant of an update (R285) -/

/-- The timing of the connection in force: interval, window size and window offset. -/
def State.timing (s : State) : Half × Byte × Half := (s.interval, s.winSize, s.winOffset)

/-- The timing that the stored record holds. -/
def State.newTiming (s : State) : Half × Byte × Half := (s.updInterval, s.updWinSize, s.updWinOffset)

theorem State.timing_eq_iff {s : State} {interval winOffset : Half} {winSize : Byte} :
    s.timing = (interval, winSize, winOffset) ↔ s.interval = interval ∧ s.winSize = winSize ∧ s.winOffset = winOffset := by
  rw [State.timing, Prod.mk_inj, Prod.mk_inj]

theorem State.applyUpdate_timing (s : State) : s.applyUpdate.timing = s.newTiming := rfl

/-- `n` connection events after a record was stored, which left state `u`; the `k`-th of them applies it. -/
structure UpdateAfter (u : State) (k n : Nat) (t : State) : Prop where
  lstate : t.lstate = .connected
  evcnt : t.evcnt = u.evcnt + BitVec.ofNat 16 n
  updInstant : t.updInstant = u.updInstant
  newTiming : t.newTiming = u.newTiming
  updPending : t.updPending = decide (n < k)
  timing : t.timing = if n < k then u.timing else u.newTiming

section Instant

variable {s u t : State} {k n : Nat}

/-- Within one round of the counter, it equals the instant after `k` events and after no other number. -/
theorem evcnt_reaches_iff {e instant : Half} (hk : k = (instant - e - 1).toNat + 1) (hn : n < k) :
    e + BitVec.ofNat 16 n + 1 = instant ↔ n + 1 = k := by
  bv_omega

/-- What `LS_UPDATE` leaves of what the connection events after it read (R282). -/
theorem issued_lsUpdate_stores {winSize : Byte} {instant interval winOffset : Half} (hl : s.lstate = .connected)
    (hu : issued .proc (.lsUpdate winSize instant interval winOffset) s = .next u) :
    u.lstate = .connected ∧ u.evcnt = s.evcnt ∧ u.updPending = true ∧ u.updInstant = instant ∧
      u.newTiming = (interval, winSize, winOffset) ∧ u.timing = s.timing := by
  obtain rfl := Host.Outcome.next.inj (hu.symm.trans ((exec_lsUpdate (s := s.as .proc) rfl).trans (if_pos hl)))
  exact ⟨hl, rfl, rfl, rfl, rfl, rfl⟩

theorem UpdateAfter.start (hl : u.lstate = .connected) (hp : u.updPending = true) (hk : 0 < k) : UpdateAfter u k 0 u where
  lstate := hl
  evcnt := (BitVec.add_zero _).symm
  updInstant := rfl
  newTiming := rfl
  updPending := by rw [hp, decide_eq_true hk]
  timing := (if_pos hk).symm

theorem UpdateAfter.evcnt_succ (h : UpdateAfter u k n t) : t.evcnt + 1 = u.evcnt + BitVec.ofNat 16 (n + 1) := by
  rw [h.evcnt, BitVec.add_assoc, BitVec.ofNat_add]
  rfl

/-- The record is due in the next event exactly when that is the `k`-th. -/
theorem UpdateAfter.due_iff (h : UpdateAfter u k n t) (hk : k = (u.updInstant - u.evcnt - 1).toNat + 1) :
    t.updPending = true ∧ t.evcnt + 1 = t.updInstant ↔ n + 1 = k := by
  rw [h.updPending, decide_eq_true_iff, h.evcnt, h.updInstant]
  constructor
  · rintro ⟨hn, hi⟩
    exact (evcnt_reaches_iff hk hn).1 hi
  · intro hn
    have hlt : n < k := by omega
    exact ⟨hlt, (evcnt_reaches_iff hk hlt).2 hn⟩

/-- The `k`-th event puts the new timing in force. -/
theorem UpdateAfter.applied (h : UpdateAfter u k n t) (hn : n + 1 = k) (r : Response) :
    UpdateAfter u k (n + 1)
      (State.answer ({ t.as .cap with evcnt := t.evcnt + 1 } : State).applyUpdate.hop r) where
  lstate := h.lstate
  evcnt := h.evcnt_succ
  updInstant := h.updInstant
  newTiming := h.newTiming
  updPending := (decide_eq_false (Nat.not_lt.2 hn.ge)).symm
  timing := (State.applyUpdate_timing _).trans (h.newTiming.trans (if_neg (Nat.not_lt.2 hn.ge)).symm)

/-- Every other event leaves the timing in force and the record pending or not, as they were. -/
theorem UpdateAfter.counted (h : UpdateAfter u k n t) (hn : n + 1 ≠ k) (r : Response) :
    UpdateAfter u k (n + 1) (State.answer ({ t.as .cap with evcnt := t.evcnt + 1 } : State).hop r) :=
  have hsame : n < k ↔ n + 1 < k := by omega
  { lstate := h.lstate
    evcnt := h.evcnt_succ
    updInstant := h.updInstant
    newTiming := h.newTiming
    updPending := h.updPending.trans (decide_eq_decide.2 hsame)
    timing := h.timing.trans (if_congr hsame rfl rfl) }

/-- One more connection event: the `k`-th applies the record and says so, any other does not. -/
theorem UpdateAfter.event (h : UpdateAfter u k n t) (hk : k = (u.updInstant - u.evcnt - 1).toNat + 1) :
    ∃ v r, issued .cap .lsEvent t = .next v ∧ UpdateAfter u k (n + 1) v ∧ v.lastOn .cap = some r ∧ r.status = .ok ∧
      r.words = [if n + 1 = k then 1 else 0] ∧ (n + 1 = k → r.rb = u.updInstant) := by
  by_cases hn : n + 1 = k
  · obtain ⟨hp, hi⟩ := (h.due_iff hk).2 hn
    refine ⟨_, _, exec_lsEvent_due (s := t.as .cap) rfl h.lstate hp hi, h.applied hn _, State.lastOn_answer rfl _, rfl, ?_,
      fun _ => hi.trans h.updInstant⟩
    rw [if_pos hn]
  · refine ⟨_, _, exec_lsEvent_notDue (s := t.as .cap) rfl h.lstate (mt (h.due_iff hk).1 hn), h.counted hn _,
      State.lastOn_answer rfl _, rfl, ?_, fun heq => absurd heq hn⟩
    rw [if_neg hn]

/-- `n` connection events after the store: the state they leave and what the last of them answers. -/
theorem repeated_lsEvent_afterUpdate (hl : u.lstate = .connected) (hp : u.updPending = true)
    (hk : k = (u.updInstant - u.evcnt - 1).toNat + 1) (n : Nat) :
    ∃ t, repeated .cap .lsEvent n u = .next t ∧ UpdateAfter u k n t ∧
      (n ≠ 0 → ∃ r, t.lastOn .cap = some r ∧ r.status = .ok ∧ r.words = [if n = k then 1 else 0] ∧
        (n = k → r.rb = u.updInstant)) := by
  induction n with
  | zero => exact ⟨u, rfl, .start hl hp (by omega), absurd rfl⟩
  | succ n ih =>
    obtain ⟨t, ht, hafter, -⟩ := ih
    obtain ⟨v, r, hv, hnext, hreport⟩ := hafter.event hk
    exact ⟨v, (repeated_succ ht).trans hv, hnext, fun _ => ⟨r, hreport⟩⟩

end Instant

/-- Settles O56, by induction on the number of events (`repeated_lsEvent_afterUpdate`): the event that is due is the `k`-th. -/
theorem updateInstantExact : Obligations.UpdateInstantExact := by
  intro winSize instant interval winOffset s u k n hl hu hk
  obtain ⟨hlstate, hevcnt, hpending, hinstant, hnew, hold⟩ := issued_lsUpdate_stores hl hu
  obtain ⟨t, ht, hafter, hreport⟩ := repeated_lsEvent_afterUpdate (k := k) hlstate hpending (by rwa [hinstant, hevcnt]) n
  rw [hinstant] at hreport
  refine ⟨t, ht, fun hn => ?_, fun hn => ?_, hreport⟩
  · obtain ⟨hinterval, hsize, hoffset⟩ := State.timing_eq_iff.1 (hafter.timing.trans ((if_pos hn).trans hold))
    exact ⟨hinterval, hsize, hoffset, hafter.updPending.trans (decide_eq_true hn)⟩
  · have hover : ¬n < k := Nat.not_lt.2 hn
    obtain ⟨hinterval, hsize, hoffset⟩ := State.timing_eq_iff.1 (hafter.timing.trans ((if_neg hover).trans hnew))
    exact ⟨hinterval, hsize, hoffset, hafter.updPending.trans (decide_eq_false hover)⟩

/-! ### The retune mailbox (R291) -/

theorem exec_rtTake {s : State} (hag : s.agent = .cap) : exec .rtTake s =
    if s.rtPending then
      .next (State.answer { s with rtPending := false } { ra := s.rtChan, rb := toHalf (chanFreq s.rtChan.toNat) })
    else .next (s.answer (errorResponse .empty)) :=
  served_cap (op := .rtTake) rfl hag

/-- Settles O57: `RT_TAKE` computes the frequency as `CM_I2F` does, by `chanFreq`. -/
theorem rtTakeResult : Obligations.RtTakeResult := by
  refine ⟨fun s hag hp => ?_, fun s hag hp hch => ⟨toHalf (chanFreq s.rtChan.toNat), ?_, exec_cmI2f hch rfl⟩⟩
  · rw [exec_rtTake hag, hp]
    rfl
  · rw [exec_rtTake hag, hp]
    rfl

end Sys2Proof.Machine
end

section
/-! PROOFS. What each operation answers, said once (R300 to R303, R321): behind the rights check the body of an operation
replies with `OK`, or raises a status of its row of R303 in one of three ways (`exec_ending`). -/

namespace Sys2Proof.Machine

/-! ### The endings of a body -/

/-- A status of an operation's row (R303) with which it writes nothing (R300). -/
def writesNothing (op : Op) (st : Status) : Bool := decide (st ∈ statusesOf op ∧ st ≠ .noBuf ∧ st ≠ .malformed)

/-- How the body of an operation ends in a state: a reply with `OK`, a raise that writes nothing, or one of the two raises
that write (R300). -/
inductive Ending (op : Op) (s : State) : Result → Prop
  | reply {u : State} {r : Response} (hok : r.status = .ok) : Ending op s (reply u r)
  | raise {st : Status} (hst : writesNothing op st = true) : Ending op s (raise s st)
  | noBuf (hst : .noBuf ∈ statusesOf op) : Ending op s (Machine.raise { s with discards := satSucc s.discards } .noBuf)
  | malformed {b : Fin 4} (hst : .malformed ∈ statusesOf op) (hb : s.CapturingAt b) : Ending op s (dropMalformed s b)

theorem Ending.ite {op : Op} {s : State} {c : Prop} {_ : Decidable c} {k l : Result} (hk : Ending op s k) (hl : Ending op s l) :
    Ending op s (if c then k else l) := by
  split
  · exact hk
  · exact hl

/-- Every operation is its rights check and a body that ends; the cases are grouped by the shape of the body. -/
theorem exec_ending (i : Instr) (s : State) : ∃ k, exec i s = served (opOf i) s k ∧ Ending (opOf i) s k := by
  unfold exec
  cases i with
  | cmAdv | crcRev24 | pbStat | acClear | prGet | prGetcv | lsFilter => exact ⟨_, rfl, .reply rfl⟩
  | prGetaa | lsCancel => exact ⟨_, rfl, .ite (.reply rfl) (.reply rfl)⟩
  | cmI2f | whLoad | whXor | whRefl | crcFwd | crcFwdt | crcRev | crcChk | prSetcv =>
    exact ⟨_, rfl, .ite (.raise rfl) (.reply rfl)⟩
  | prStop | prReseed | prSetaa | lsStop | lsUpdate | rtTake => exact ⟨_, rfl, .ite (.reply rfl) (.raise rfl)⟩
  | cmHop | whStep | whXors => exact ⟨_, rfl, .ite (.raise rfl) (.ite (.raise rfl) (.reply rfl))⟩
  | acScan | prStart | lsFollow => exact ⟨_, rfl, .ite (.raise rfl) (.ite (.reply rfl) (.raise rfl))⟩
  | lsConnreq => exact ⟨_, rfl, .ite (.raise rfl) (.ite (.raise rfl) (.ite (.reply rfl) (.reply rfl)))⟩
  | acSee | lsEvent => exact ⟨_, rfl, .ite (.ite (.reply rfl) (.reply rfl)) (.raise rfl)⟩
  | cmF2i | pbRssi | pbAbort | pbPoll | prSetto =>
    refine ⟨_, rfl, ?_⟩
    split
    · exact .raise rfl
    · exact .reply rfl
  | pbRead | pbRel | prPkt =>
    refine ⟨_, rfl, ?_⟩
    split
    · exact .raise rfl
    · exact .ite (.reply rfl) (.raise rfl)
  | acGet =>
    refine ⟨_, rfl, ?_⟩
    split
    · exact .raise rfl
    · exact .ite (.reply rfl) (.reply rfl)
  | tick =>
    refine ⟨_, rfl, .ite (.reply rfl) ?_⟩
    split
    · exact .reply rfl
    · exact .reply rfl
  | pbAcq =>
    refine ⟨_, rfl, ?_⟩
    split
    · exact .raise rfl
    · split
      · exact .noBuf (by decide)
      · exact .reply rfl
  | pbWrite =>
    refine ⟨_, rfl, .ite (.raise rfl) ?_⟩
    split
    · exact .raise rfl
    · next b hb =>
      have dropped : Ending .pbWrite s (dropMalformed s b) := .malformed (by decide) (capturing_some.1 hb)
      exact .ite dropped (.ite dropped (.reply rfl))
  | pbCommit =>
    refine ⟨_, rfl, .ite (.raise rfl) ?_⟩
    split
    · exact .raise rfl
    · next b hb =>
      have dropped : Ending .pbCommit s (dropMalformed s b) := .malformed (by decide) (capturing_some.1 hb)
      exact .ite (.reply rfl) dropped

/-! ### What an operation answers -/

/-- The response an operation gives and the state it leaves: `PERM` to an agent without the right, else the body's ending. -/
inductive Answered (op : Op) (s : State) : State → Response → Prop
  | denied (hperm : ¬Permitted s.agent op) : Answered op s (s.answer (errorResponse .perm)) (errorResponse .perm)
  | replied {u : State} {r : Response} (hperm : Permitted s.agent op) (hok : r.status = .ok) : Answered op s (u.answer r) r
  | raised {st : Status} (hperm : Permitted s.agent op) (hst : st ∈ statusesOf op) (hplain : st ≠ .noBuf ∧ st ≠ .malformed) :
      Answered op s (s.answer (errorResponse st)) (errorResponse st)
  | noBuf (hperm : Permitted s.agent op) (hst : .noBuf ∈ statusesOf op) :
      Answered op s (State.answer { s with discards := satSucc s.discards } (errorResponse .noBuf)) (errorResponse .noBuf)
  | malformed {b : Fin 4} (hperm : Permitted s.agent op) (hst : .malformed ∈ statusesOf op) (hb : s.CapturingAt b) :
      Answered op s ((s.setTag b .free).answer (errorResponse .malformed)) (errorResponse .malformed)

theorem exec_denied {i : Instr} {s : State} (h : ¬Permitted s.agent (opOf i)) :
    exec i s = .next (s.answer (errorResponse .perm)) := by
  obtain ⟨k, hk, -⟩ := exec_ending i s
  rw [hk, served_of_denied (by simpa [permitted_iff] using h)]

theorem exec_agent {i : Instr} {s t : State} (h : exec i s = .next t) : t.agent = s.agent := by
  obtain ⟨u, r, hu, rfl⟩ := exec_answeredOnce h
  exact congrArg Boundary.agent hu

/-- A response sent is the last on its issuer's port. -/
theorem exec_lastOn {i : Instr} {s u : State} {r : Response} (h : exec i s = .next (u.answer r)) :
    (u.answer r).lastOn s.agent = some r := by
  have hagent : (u.answer r).agent = s.agent := exec_agent h
  exact State.lastOn_answer (s := u) hagent r

/-- Every operation that answers has sent such a response. -/
theorem exec_answered {i : Instr} {s t : State} (h : exec i s = .next t) :
    ∃ r, t.lastOn s.agent = some r ∧ Answered (opOf i) s t r := by
  by_cases hperm : Permitted s.agent (opOf i)
  · obtain ⟨k, hk, hend⟩ := exec_ending i s
    rw [served_of_allowed ((permitted_iff _ _).1 hperm)] at hk
    have hbody := hk.symm.trans h
    cases hend with
    | reply hok =>
      obtain rfl := reply_next.1 hbody
      exact ⟨_, exec_lastOn h, .replied hperm hok⟩
    | raise hst =>
      obtain rfl := raise_next.1 hbody
      obtain ⟨hmem, hplain⟩ := of_decide_eq_true hst
      exact ⟨_, exec_lastOn h, .raised hperm hmem hplain⟩
    | noBuf hst =>
      obtain rfl := raise_next.1 hbody
      exact ⟨_, exec_lastOn h, .noBuf hperm hst⟩
    | malformed hst hb =>
      obtain rfl := dropMalformed_next.1 hbody
      exact ⟨_, exec_lastOn h, .malformed hperm hst hb⟩
  · rw [exec_denied hperm] at h
    cases h
    exact ⟨_, exec_lastOn (exec_denied hperm), .denied hperm⟩

theorem exec_answered_lastOn {i : Instr} {s t : State} {r : Response} (h : exec i s = .next t)
    (hr : t.lastOn s.agent = some r) : Answered (opOf i) s t r := by
  obtain ⟨r', hr', answered⟩ := exec_answered h
  cases hr.symm.trans hr'
  exact answered

section Answered

variable {op : Op} {s t : State} {r : Response}

/-- The table of R303 leaves `OK`, `PERM` and the decoder's `ILLEGAL` out. -/
theorem not_mem_statusesOf (op : Op) : ∀ st ∈ [Status.ok, .illegal, .perm], st ∉ statusesOf op := by
  cases op <;> decide

theorem Answered.status_ne_perm (h : Answered op s t r) (hperm : Permitted s.agent op) : r.status ≠ .perm := by
  cases h with
  | denied hdenied => exact absurd hperm hdenied
  | replied _ hok => simp [hok]
  | raised _ hst _ => exact fun heq => not_mem_statusesOf op .perm (by decide) (heq ▸ hst)
  | noBuf | malformed => nofun

theorem Answered.status (h : Answered op s t r) : r.status = .ok ∨ r.status = .perm ∨ r.status ∈ statusesOf op := by
  cases h with
  | denied => exact .inr (.inl rfl)
  | replied _ hok => exact .inl hok
  | raised _ hst _ | noBuf _ hst | malformed _ hst _ => exact .inr (.inr hst)

/-- Only a capture that is dropped is answered `MALFORMED`. -/
theorem Answered.of_malformed (h : Answered op s t r) (hr : r.status = .malformed) :
    ∃ b : Fin 4, s.CapturingAt b ∧ t = (s.setTag b .free).answer (errorResponse .malformed) := by
  cases h with
  | denied | noBuf => cases hr
  | replied _ hok => cases hok.symm.trans hr
  | raised _ _ hplain => exact absurd hr hplain.2
  | malformed _ _ hb => exact ⟨_, hb, rfl⟩

end Answered

/-- Settles O14: the rights check comes first (`exec_denied`), and no body raises `PERM`. -/
theorem wrongAgentGetsPerm : Obligations.WrongAgentGetsPerm :=
  ⟨fun _ _ => exec_denied, fun _ _ _ _ hperm h hr => (exec_answered_lastOn h hr).status_ne_perm hperm⟩

/-- Settles O16: a raise is `errorResponse` on the state found, but for the two that write. -/
theorem raiseIsPrecise : Obligations.RaiseIsPrecise := by
  intro i s t r h hr hne
  cases exec_answered_lastOn h hr with
  | denied => exact ⟨rfl, .inl ⟨nofun, nofun, rfl⟩⟩
  | replied _ hok => exact absurd hok hne
  | raised _ _ hplain => exact ⟨rfl, .inl ⟨hplain.1, hplain.2, rfl⟩⟩
  | noBuf => exact ⟨rfl, .inr (.inl ⟨rfl, rfl⟩)⟩
  | malformed _ _ hb => exact ⟨rfl, .inr (.inr ⟨rfl, _, hb, rfl⟩)⟩

end Sys2Proof.Machine
end

section
/-! PROOFS. Every status of the table of R303 is attained: for each operation and status, a request and a state in which the model
answers it so. The states are small variations of reset. -/

namespace Sys2Proof.Machine

/-! ### A status attained -/

def Attained (op : Op) (st : Status) : Prop :=
  ∃ (i : Instr) (s t : State) (r : Response), opOf i = op ∧ exec i s = .next t ∧ t.lastOn s.agent = some r ∧ r.status = st

/-- The status of the response that an operation sends. -/
def replyStatus (i : Instr) (s : State) : Option Status :=
  match exec i s with
  | .next t => (t.lastOn s.agent).map Response.status
  | .fault _ => none
  | .refused _ => none

theorem attained_of_replyStatus {i : Instr} {s : State} {st : Status} (h : replyStatus i s = some st) :
    Attained (opOf i) st := by
  obtain ⟨t, ht⟩ := exec_total i s
  simp only [replyStatus, ht, Option.map_eq_some_iff] at h
  obtain ⟨r, hr, hst⟩ := h
  exact ⟨i, s, t, r, rfl, ht, hr, hst⟩

/-- Outside the domain of an operand the right agent is answered `RANGE` (R107). -/
theorem attained_of_outOfDomain {i : Instr} (h : outOfDomain i) : Attained (opOf i) .range := by
  have hperm : Permitted (issuer (opOf i)) (opOf i) := by
    rw [permitted_iff]
    cases opOf i <;> rfl
  have hrun := (rangeExactlyOutOfDomain i (State.reset.as (issuer (opOf i))) hperm).1 h
  exact ⟨i, _, _, _, rfl, hrun, exec_lastOn hrun, rfl⟩

/-! ### Requests and states -/

/-- A request of each operation with every operand in its domain. -/
def sampleRequest : Op → Instr
  | .cmI2f => .cmI2f 0
  | .cmF2i => .cmF2i 2402
  | .cmAdv => .cmAdv
  | .cmHop => .cmHop 0 0
  | .whLoad => .whLoad 0 0
  | .whStep => .whStep 1
  | .whXor => .whXor 0 0 [0]
  | .whXors => .whXors [0]
  | .whRefl => .whRefl [0]
  | .crcFwd => .crcFwd 0 [0]
  | .crcFwdt => .crcFwdt 0 [0]
  | .crcRev => .crcRev 0 [0]
  | .crcRev24 => .crcRev24 0
  | .crcChk => .crcChk 0 [0, 0, 0]
  | .pbAcq => .pbAcq
  | .pbWrite => .pbWrite [0]
  | .pbRssi => .pbRssi 0
  | .pbCommit => .pbCommit 0 0 0
  | .pbAbort => .pbAbort
  | .pbPoll => .pbPoll
  | .pbRead => .pbRead 0
  | .pbRel => .pbRel 0
  | .pbStat => .pbStat
  | .acClear => .acClear
  | .acSee => .acSee 0
  | .acScan => .acScan 0 [0]
  | .acGet => .acGet 0
  | .prStart => .prStart 0
  | .prStop => .prStop
  | .prPkt => .prPkt 0
  | .tick => .tick 0
  | .prReseed => .prReseed
  | .prGet => .prGet
  | .prSetaa => .prSetaa 0
  | .prGetaa => .prGetaa
  | .prSetcv => .prSetcv 0
  | .prGetcv => .prGetcv
  | .prSetto => .prSetto 0 0
  | .lsFollow => .lsFollow 37
  | .lsStop => .lsStop
  | .lsFilter => .lsFilter 0 0
  | .lsConnreq => .lsConnreq 0 0 0 0 0 0 0 0 0
  | .lsUpdate => .lsUpdate 0 0 0 0
  | .lsEvent => .lsEvent
  | .lsCancel => .lsCancel
  | .rtTake => .rtTake

theorem opOf_sampleRequest (op : Op) : opOf (sampleRequest op) = op := by
  cases op <;> rfl

theorem attained_of_sample {op : Op} {st : Status} (s : State) (h : replyStatus (sampleRequest op) s = some st) :
    Attained op st := by
  rw [← opOf_sampleRequest op]
  exact attained_of_replyStatus h

/-- One byte more than `DATA_MAX`. -/
def overlong : List Byte := .replicate 264 0

theorem overlong_length : 263 < overlong.length := by
  rw [overlong, List.length_replicate]
  decide

/-- `CAP` served, buffer 0 capturing, with `len` bytes written that are all 0. -/
def capturingZeros (len : Half) : State :=
  { State.reset with agent := .cap, pb := State.reset.pb.set 0 { Buffer.reset with tag := .capturing, len := len } }

/-- Agent `g` served, every buffer holding a packet with no payload. -/
def allQueued (g : Agent) : State :=
  { State.reset with agent := g, pb := Vector.replicate 4 { Buffer.reset with tag := .queued, len := 5 }, pbq := [0, 1, 2, 3] }

/-- `PROC` served, both stream contexts loaded. -/
def contextsLoaded : State :=
  { State.reset with agent := .proc, whCap := { WhCtx.reset with loaded := true }, whProc := { WhCtx.reset with loaded := true } }

/-- `PROC` served in the stage `Discovery`. -/
def discovering : State := { State.reset with agent := .proc, mode := .promisc, lstate := .listening, stage := .discovery }

/-- `PROC` served in `FOLLOW` mode, waiting for a request, with a filter that passes every address. -/
def awaitingRequest : State := { State.reset with agent := .proc, mode := .follow, lstate := .listening }

/-- Agent `g` served in `FOLLOW` mode while a connection is followed. -/
def inConnection (g : Agent) : State :=
  { State.reset with agent := g, mode := .follow, lstate := .connected, stage := .connectionFollow }

/-- `CAP` served, a channel waiting in the mailbox. -/
def retunePending : State := { State.reset with agent := .cap, rtPending := true }

/-! ### Status by status -/

theorem attained_ok (op : Op) : Attained op .ok := by
  cases op with
  | cmI2f | cmF2i | cmAdv | cmHop | whLoad | whXor | whRefl | crcFwd | crcFwdt | crcRev | crcRev24 | crcChk | pbStat | acClear
  | acGet | prStart | tick | prGet | prGetaa | prSetcv | prGetcv | prSetto | lsFollow | lsFilter | lsCancel =>
    exact attained_of_sample (State.reset.as .proc) rfl
  | whStep | whXors => exact attained_of_sample contextsLoaded rfl
  | pbAcq => exact attained_of_sample (State.reset.as .cap) rfl
  | pbWrite | pbRssi | pbAbort => exact attained_of_sample (capturingZeros 0) rfl
  | pbCommit => exact attained_of_sample (capturingZeros 5) rfl
  | pbPoll | pbRead | pbRel | prPkt => exact attained_of_sample (allQueued .proc) rfl
  | acSee | acScan | prStop | prReseed | prSetaa => exact attained_of_sample discovering rfl
  | lsStop | lsConnreq => exact attained_of_sample awaitingRequest rfl
  | lsUpdate => exact attained_of_sample (inConnection .proc) rfl
  | lsEvent => exact attained_of_sample (inConnection .cap) rfl
  | rtTake => exact attained_of_sample retunePending rfl

theorem attained_range {op : Op} (h : .range ∈ statusesOf op) : Attained op .range := by
  cases op with
  | cmI2f => exact attained_of_outOfDomain (i := .cmI2f 40) (by simp [outOfDomain])
  | cmF2i => exact attained_of_outOfDomain (i := .cmF2i 2403) (by simp [outOfDomain])
  | cmHop => exact attained_of_outOfDomain (i := .cmHop 37 0) (by simp [outOfDomain])
  | whLoad => exact attained_of_outOfDomain (i := .whLoad 40 0) (by simp [outOfDomain])
  | whStep => exact attained_of_outOfDomain (i := .whStep 33) (by simp [outOfDomain])
  | whXor => exact attained_of_outOfDomain (i := .whXor 40 0 []) (by simp [outOfDomain])
  | whXors => exact attained_of_outOfDomain (i := .whXors overlong) overlong_length
  | whRefl => exact attained_of_outOfDomain (i := .whRefl overlong) overlong_length
  | crcFwd => exact attained_of_outOfDomain (i := .crcFwd 0 overlong) overlong_length
  | crcFwdt => exact attained_of_outOfDomain (i := .crcFwdt 0 overlong) overlong_length
  | crcRev => exact attained_of_outOfDomain (i := .crcRev 0 overlong) overlong_length
  | crcChk => exact attained_of_outOfDomain (i := .crcChk 0 []) (by simp [outOfDomain])
  | pbWrite => exact attained_of_outOfDomain (i := .pbWrite overlong) overlong_length
  | pbCommit => exact attained_of_outOfDomain (i := .pbCommit 40 0 0) (by simp [outOfDomain])
  | pbRead => exact attained_of_outOfDomain (i := .pbRead 4) (by simp [outOfDomain])
  | pbRel => exact attained_of_outOfDomain (i := .pbRel 4) (by simp [outOfDomain])
  | acScan => exact attained_of_outOfDomain (i := .acScan 40 []) (by simp [outOfDomain])
  | acGet => exact attained_of_outOfDomain (i := .acGet 32) (by simp [outOfDomain])
  | prStart => exact attained_of_outOfDomain (i := .prStart 40) (by simp [outOfDomain])
  | prPkt => exact attained_of_outOfDomain (i := .prPkt 4) (by simp [outOfDomain])
  | prSetcv => exact attained_of_outOfDomain (i := .prSetcv 2) (by simp [outOfDomain])
  | prSetto => exact attained_of_outOfDomain (i := .prSetto 3 0) (by simp [outOfDomain])
  | lsFollow => exact attained_of_outOfDomain (i := .lsFollow 36) (by simp [outOfDomain])
  | lsConnreq => exact attained_of_outOfDomain (i := .lsConnreq 37 0 0 0 0 0 0 0 0) (by simp [outOfDomain])
  | _ => exact absurd h (by decide)

theorem attained_badState {op : Op} (h : .badState ∈ statusesOf op) : Attained op .badState := by
  cases op with
  | acSee | acScan | prStop | prReseed | prSetaa | lsStop | lsConnreq | lsUpdate =>
    exact attained_of_sample (State.reset.as .proc) rfl
  | lsEvent => exact attained_of_sample (State.reset.as .cap) rfl
  | pbAcq => exact attained_of_sample (capturingZeros 0) rfl
  | prStart | lsFollow => exact attained_of_sample discovering rfl
  | _ => exact absurd h (by decide)

theorem attained_badTag {op : Op} (h : .badTag ∈ statusesOf op) : Attained op .badTag := by
  cases op with
  | pbWrite | pbRssi | pbCommit | pbAbort => exact attained_of_sample (State.reset.as .cap) rfl
  | pbRead | pbRel | prPkt => exact attained_of_sample (State.reset.as .proc) rfl
  | _ => exact absurd h (by decide)

theorem attained_noBuf {op : Op} (h : .noBuf ∈ statusesOf op) : Attained op .noBuf := by
  cases op with
  | pbAcq => exact attained_of_sample (allQueued .cap) rfl
  | _ => exact absurd h (by decide)

theorem attained_empty {op : Op} (h : .empty ∈ statusesOf op) : Attained op .empty := by
  cases op with
  | pbPoll => exact attained_of_sample (State.reset.as .proc) rfl
  | rtTake => exact attained_of_sample (State.reset.as .cap) rfl
  | _ => exact absurd h (by decide)

/-- A buffer that is full takes no byte, and one with no bytes is no whole packet (R183, R185). -/
theorem attained_malformed {op : Op} (h : .malformed ∈ statusesOf op) : Attained op .malformed := by
  cases op with
  | pbWrite => exact attained_of_sample (capturingZeros 263) rfl
  | pbCommit => exact attained_of_sample (capturingZeros 0) rfl
  | _ => exact absurd h (by decide)

theorem attained_notLoaded {op : Op} (h : .notLoaded ∈ statusesOf op) : Attained op .notLoaded := by
  cases op with
  | whStep | whXors => exact attained_of_sample (State.reset.as .proc) rfl
  | _ => exact absurd h (by decide)

theorem attained_of_mem {op : Op} {st : Status} (h : st ∈ statusesOf op) : Attained op st := by
  cases st with
  | range => exact attained_range h
  | badState => exact attained_badState h
  | badTag => exact attained_badTag h
  | noBuf => exact attained_noBuf h
  | empty => exact attained_empty h
  | malformed => exact attained_malformed h
  | notLoaded => exact attained_notLoaded h
  | ok | illegal | perm => exact absurd h (not_mem_statusesOf op _ (by decide))

/-- Settles O15: the status is one of the row (`Answered.status`), and each of the row's is attained. -/
theorem statusesOfEachOperation : Obligations.StatusesOfEachOperation := by
  refine ⟨fun i s t h => ?_, fun op st h => ?_⟩
  · obtain ⟨r, hr, answered⟩ := exec_answered h
    exact ⟨r, hr, answered.status⟩
  · obtain rfl | hmem := h
    · exact attained_ok op
    · exact attained_of_mem hmem

end Sys2Proof.Machine
end

section
/-! PROOFS. What `MALFORMED` leaves of the pool, and what the next `PB_ACQ` makes of it (R182, R306). -/

namespace Sys2Proof.Machine

section Dropped

variable {s t : State} {b : Fin 4}

theorem setTag_tag_same (s : State) (b : Fin 4) (g : Tag) : (s.setTag b g).pb[b].tag = g :=
  congrArg Buffer.tag (s.setBuf_pb_same b _)

/-- At most one buffer is capturing (R191), so freeing it leaves none. -/
theorem noneCapturing_setTag_free (hs : s.PoolWf) (hb : s.pb[b].tag = .capturing) : (s.setTag b .free).NoneCapturing := by
  obtain ⟨tags, -⟩ := poolWf_iff.1 hs
  intro a ha
  by_cases hab : a = b
  · subst hab
    rw [setTag_tag_same] at ha
    cases ha
  · have hother : (s.setTag b .free).pb[a] = s.pb[a] := s.setBuf_pb_other _ hab
    rw [hother] at ha
    exact hab (tags.single a b ha hb)

/-- With no buffer capturing and one free, `PB_ACQ` starts a clean buffer that was free, and counts no discard (R182). -/
theorem issued_pbAcq_clean (hnone : t.NoneCapturing) (hfree : t.pb[b].tag = .free) :
    ∃ (u : State) (c : Fin 4), issued .cap .pbAcq t = .next u ∧ u.lastOn .cap = some { ra := toByte c.val } ∧
      u.pb[c] = t.pb[c].acquired ∧ u.pbq = t.pbq ∧ u.discards = t.discards ∧
      ∀ a : Fin 4, t.pb[a].tag ≠ .free → u.pb[a] = t.pb[a] := by
  obtain ⟨c, hc⟩ : ∃ c, t.findTag .free = some c := Option.ne_none_iff_exists'.1 fun h => findTag_none.1 h b hfree
  refine ⟨_, c, exec_pbAcq_free (s := t.as .cap) rfl hnone hc, State.lastOn_answer rfl _,
    (t.as .cap).setBuf_pb_same c _, rfl, rfl, fun a ha => ?_⟩
  have hac : a ≠ c := by
    rintro rfl
    exact ha (findTag_some.1 hc).1
  exact (t.as .cap).setBuf_pb_other _ hac

end Dropped

/-- Settles O19: `MALFORMED` frees the one capturing buffer, so `PB_ACQ` finds a free one and nothing capturing. -/
theorem malformedDropsOnePacket : Obligations.MalformedDropsOnePacket := by
  intro i s t r hs h hr hmal
  obtain ⟨b, ⟨hb, -⟩, rfl⟩ := (exec_answered_lastOn h hr).of_malformed hmal
  have queued (a : Fin 4) (ha : s.pb[a].tag = .queued) : (s.setTag b .free).pb[a] = s.pb[a] := by
    refine s.setBuf_pb_other _ ?_
    rintro rfl
    cases ha.symm.trans hb
  have hnone := noneCapturing_setTag_free hs hb
  obtain ⟨u, c, hacq, hra, hclean, hpbq, hdiscards, hothers⟩ :=
    issued_pbAcq_clean (t := (s.setTag b .free).answer (errorResponse .malformed)) hnone (setTag_tag_same s b .free)
  refine ⟨hnone, rfl, queued, u, c, hacq, hra, congrArg Buffer.tag hclean, congrArg Buffer.len hclean, hpbq, hdiscards,
    fun a ha => (hothers a ?_).trans (queued a ha)⟩
  rw [State.answer_pb, queued a ha, ha]
  decide

end Sys2Proof.Machine
end

section
/-! PROOFS. Which elements each agent's operations change (R322). `CAP`: the frame `CapWrites`, with `LS_EVENT` apart.
`PROC`: what is `CAP`'s alone (`CapOwned`) is written by no operation that `PROC` may issue, and of the pool's moves only
that of `PB_REL` is `PROC`'s. -/

namespace Sys2Proof.Machine

/-- An operation that answers has only sent an error, or its agent has the right and it has its effect (R302, R321). -/
theorem exec_next_permitted {i : Instr} {s t : State} (h : exec i s = .next t) :
    (∃ st, t = s.answer (errorResponse st)) ∨ ((rights (opOf i)).allows s.agent = true ∧ Effect i s t) := by
  by_cases hperm : Permitted s.agent (opOf i)
  · rcases exec_next h with ⟨st, -, ht⟩ | heffect
    · exact .inl ⟨st, ht⟩
    · exact .inr ⟨(permitted_iff _ _).1 hperm, heffect⟩
  · rw [exec_denied hperm] at h
    cases h
    exact .inl ⟨_, rfl⟩

/-! ### The contents of a buffer -/

section Contents

variable {s t : State} {a b : Fin 4} {p : Buffer} {q : List (Fin 4)}

theorem moved_get (h : t.pool = { (s.setBuf b p).pool with pbq := q }) (a : Fin 4) :
    t.pb[a] = if a = b then p else s.pb[a] := by
  have hpb : t.pb = (s.setBuf b p).pb := congrArg Pool.pb h
  rw [hpb, State.setBuf_pb_get]

theorem moved_contents (h : t.pool = { (s.setBuf b p).pool with pbq := q })
    (hp : a = b → p = { s.pb[a] with tag := p.tag }) : t.pb[a] = { s.pb[a] with tag := t.pb[a].tag } := by
  rw [moved_get h]
  split
  · next hab => exact hp hab
  · rfl

/-- Only a buffer that is capturing, before the move or after it, changes more than its tag. -/
theorem PoolMove.contents {op : Op} (h : PoolMove op s t) (hs : s.pb[a].tag ≠ .capturing) (ht : t.pb[a].tag ≠ .capturing) :
    t.pb[a] = { s.pb[a] with tag := t.pb[a].tag } := by
  have notCapturing {b : Fin 4} (hcap : s.pb[b].tag = .capturing) : a ≠ b := by
    rintro rfl
    exact hs hcap
  cases h with
  | none h =>
    have hpb : t.pb = s.pb := congrArg Pool.pb h
    rw [hpb]
  | acquire b _ _ h =>
    refine moved_contents h fun hab => absurd ?_ ht
    rw [moved_get h, if_pos hab]
    rfl
  | append b hcap _ _ h | sample b _ hcap h | commit b hcap _ h | drop b _ hcap _ h =>
    exact moved_contents h fun hab => absurd hab (notCapturing hcap)
  | release b _ h =>
    refine moved_contents h ?_
    rintro rfl
    rfl

/-- A queued buffer released: it is free, and no longer in the queue (R189). -/
def Released (s t : State) : Prop :=
  ∃ b : Fin 4, s.pb[b].tag = .queued ∧ t.pool = { (s.setTag b .free).pool with pbq := s.pbq.filter fun x => x != b }

theorem Released.buffer (h : Released s t) (a : Fin 4) :
    t.pb[a] = s.pb[a] ∨ (s.pb[a].tag = .queued ∧ t.pb[a] = { s.pb[a] with tag := .free }) := by
  obtain ⟨b, hq, hmove⟩ := h
  rw [moved_get hmove]
  split
  · next hab => exact .inr ⟨hab ▸ hq, by rw [hab]⟩
  · exact .inl rfl

theorem Released.mem_pbq (h : Released s t) (ha : a ∈ t.pbq) : a ∈ s.pbq := by
  obtain ⟨b, -, hmove⟩ := h
  have hpbq : t.pbq = s.pbq.filter fun x => x != b := congrArg Pool.pbq hmove
  rw [hpbq] at ha
  exact List.mem_of_mem_filter ha

/-- No move but `PB_REL`'s is one that `PROC` may make (R321). -/
theorem PoolMove.of_proc {op : Op} (h : PoolMove op s t) (hright : (rights op).allows .proc = true) :
    t.pool = s.pool ∨ Released s t := by
  cases h with
  | none h => exact .inl h
  | release b hq h => exact .inr ⟨b, hq, h⟩
  | drop b hop =>
    have denied : ∀ op ∈ [Op.pbAbort, .pbWrite, .pbCommit], (rights op).allows .proc = false := by decide
    exact absurd hright (by simp [denied op hop])
  | acquire | append | sample | commit => exact absurd hright (by decide)

end Contents

/-! ### What `CAP` writes -/

section Cap

variable {s t u : State}

/-- The elements that `CAP`'s operations write, `LS_EVENT` apart. -/
def CapWrites (s t : State) : Prop :=
  ∃ pb pbq discards rtPending whCap capPort,
    t = { s with
      pb := pb, pbq := pbq, discards := discards, rtPending := rtPending, whCap := whCap, capPort := capPort }

theorem State.answer_of_cap (hag : s.agent = .cap) (r : Response) :
    s.answer r = { s with capPort := { s.capPort with resps := s.capPort.resps ++ [r] } } := by
  simp [State.answer, State.setPort, State.port, hag]

theorem State.setWhc_of_cap (hag : s.agent = .cap) (c : WhCtx) : s.setWhc c = { s with whCap := c } := by
  simp [State.setWhc, hag]

theorem CapWrites.refl (s : State) : CapWrites s s := ⟨_, _, _, _, _, _, rfl⟩

theorem CapWrites.setBuf (s : State) (b : Fin 4) (p : Buffer) : CapWrites s (s.setBuf b p) := ⟨_, _, _, _, _, _, rfl⟩

theorem CapWrites.setWhc (hag : s.agent = .cap) (c : WhCtx) : CapWrites s (s.setWhc c) :=
  ⟨_, _, _, _, _, _, State.setWhc_of_cap hag c⟩

/-- The response is on `CAP`'s own port. -/
theorem CapWrites.answer (hag : s.agent = .cap) (r : Response) (h : CapWrites s u) : CapWrites s (u.answer r) := by
  obtain ⟨pb, pbq, discards, rtPending, whCap, capPort, rfl⟩ := h
  exact ⟨_, _, _, _, _, _, State.answer_of_cap (by exact hag) r⟩

theorem Effect.capWrites {i : Instr} (h : Effect i s t) (hag : s.agent = .cap)
    (hright : (rights (opOf i)).allows .cap = true) (hi : opOf i ≠ .lsEvent) : CapWrites s t := by
  cases i with
  | cmAdv | crcRev24 | pbStat =>
    obtain rfl := h
    exact .answer hag _ (.refl s)
  | cmI2f | whRefl | crcFwd | crcFwdt | crcRev =>
    obtain ⟨-, rfl⟩ := h
    exact .answer hag _ (.refl s)
  | cmF2i =>
    obtain ⟨k, -, rfl⟩ := h
    exact .answer hag _ (.refl s)
  | cmHop | whXor | crcChk =>
    obtain ⟨-, -, rfl⟩ := h
    exact .answer hag _ (.refl s)
  | whLoad =>
    obtain ⟨-, rfl⟩ := h
    exact .answer hag _ (.setWhc hag _)
  | whStep =>
    obtain ⟨-, -, -, rfl⟩ := h
    exact .answer hag _ (.setWhc hag _)
  | whXors =>
    obtain ⟨-, -, rfl⟩ := h
    exact .answer hag _ (.setWhc hag _)
  | pbAcq =>
    obtain ⟨-, ⟨-, rfl⟩ | ⟨b, -, rfl⟩⟩ := h
    · exact .answer hag _ ⟨_, _, _, _, _, _, rfl⟩
    · exact .answer hag _ (.setBuf s b _)
  | pbWrite =>
    obtain ⟨-, b, -, ⟨rfl, -⟩ | ⟨-, -, rfl⟩⟩ := h
    · exact .answer hag _ (.setBuf s b _)
    · exact .answer hag _ (.setBuf s b _)
  | pbRssi | pbAbort =>
    obtain ⟨b, -, rfl⟩ := h
    exact .answer hag _ (.setBuf s b _)
  | pbCommit =>
    obtain ⟨-, b, -, ⟨-, rfl⟩ | ⟨-, rfl⟩⟩ := h
    · exact .answer hag _ (.setBuf s b _)
    · exact .answer hag _ ⟨_, _, _, _, _, _, rfl⟩
  | pbRel =>
    obtain ⟨b, -, -, rfl⟩ := h
    exact .answer hag _ ⟨_, _, _, _, _, _, rfl⟩
  | rtTake =>
    obtain ⟨-, rfl⟩ := h
    exact .answer hag _ ⟨_, _, _, _, _, _, rfl⟩
  | lsEvent => exact absurd rfl hi
  | _ => exact absurd hright Bool.false_ne_true

theorem exec_capWrites {i : Instr} (hag : s.agent = .cap) (h : exec i s = .next t) (hi : opOf i ≠ .lsEvent) :
    CapWrites s t := by
  rcases exec_next_permitted h with ⟨st, rfl⟩ | ⟨hright, heffect⟩
  · exact .answer hag _ (.refl s)
  · rw [hag] at hright
    exact heffect.capWrites hag hright hi

theorem eq_lsEvent {i : Instr} (h : opOf i = .lsEvent) : i = .lsEvent := by
  cases i with
  | lsEvent => rfl
  | _ => cases h

/-- A connection event, applied update or not, writes the counter, the channel with its mailbox, and what the update holds
(R283, R284). -/
theorem exec_lsEvent_frame (hag : s.agent = .cap) (h : exec .lsEvent s = .next t) :
    t = { s with
      rtPending := t.rtPending, rtChan := t.rtChan, evcnt := t.evcnt, chan := t.chan, interval := t.interval
      winSize := t.winSize, winOffset := t.winOffset, updPending := t.updPending, capPort := t.capPort } := by
  rcases exec_next h with ⟨st, -, rfl⟩ | ⟨-, ⟨-, rfl⟩ | ⟨-, rfl⟩⟩
  · rw [State.answer_of_cap hag]
  · rw [State.answer_of_cap (s := s.countEvent.applyUpdate.hop) hag]
    simp only [State.hop, State.tune, State.applyUpdate, State.countEvent]
  · rw [State.answer_of_cap (s := s.countEvent.hop) hag]
    simp only [State.hop, State.tune, State.countEvent]

end Cap

/-! ### What `PROC` leaves alone -/

/-- The elements that only `CAP`'s operations write, beside the pool and `CAP`'s port. -/
structure CapOwned where
  discards : Word
  whCap : WhCtx

def State.capOwned (s : State) : CapOwned := { discards := s.discards, whCap := s.whCap }

section Proc

variable {s t u : State}

theorem see_capOwned (s : State) (aa : Word) : (see s aa).1.capOwned = s.capOwned := by
  rw [see_frame]
  rfl

theorem Scan.record_capOwned (acc : Scan) (ch : Byte) (p : Nat) (window : List Bool) :
    (acc.record ch p window).state.capOwned = acc.state.capOwned := by
  unfold Scan.record
  dsimp only
  split
  · exact see_capOwned _ _
  · exact see_capOwned _ _

theorem scanFrom_capOwned (ch : Byte) (pats : List (List Bool)) (n p : Nat) (window : List Bool) (acc : Scan) :
    (scanFrom ch pats n p window acc).state.capOwned = acc.state.capOwned := by
  induction n generalizing p window acc with
  | zero => rfl
  | succ n ih =>
    have recorded := acc.record_capOwned ch p window
    unfold scanFrom
    dsimp only
    split
    · split
      · exact recorded
      · exact (ih _ _ _).trans recorded
    · exact ih _ _ _

theorem inconclusive_capOwned (s : State) : (inconclusive s).state.capOwned = s.capOwned := by
  unfold inconclusive
  dsimp only
  split
  · rfl
  · rfl

theorem stageHandler_capOwned (s : State) (p : PacketView) : (stageHandler s p).state.capOwned = s.capOwned := by
  unfold stageHandler
  split
  · unfold stageInterval
    dsimp only
    split_ifs
    all_goals rfl
  · unfold stageIncrement
    split_ifs
    · rfl
    · split
      · rfl
      · exact inconclusive_capOwned s
    · rfl
  · unfold stageFollow
    dsimp only
    split
    · rfl
    · rfl
  all_goals rfl

theorem intake_capOwned (s : State) (b : Fin 4) : (intake s b).state.capOwned = s.capOwned := by
  unfold intake
  dsimp only
  split_ifs
  · rfl
  · rfl
  · unfold stageCrc
    split
    · rfl
    · rfl
  · rfl
  · exact stageHandler_capOwned s _

theorem unlink_capOwned (s : State) : s.unlink.capOwned = s.capOwned := by
  unfold State.unlink
  split
  · rfl
  · rfl

theorem timeouts_capOwned {now : Ts} {events : List Event} (h : timeouts s now = some (u, events)) :
    u.capOwned = s.capOwned := by
  unfold timeouts at h
  dsimp only at h
  split_ifs at h
  · cases h
    rfl
  · cases h
    rfl
  · cases h
    exact unlink_capOwned s

theorem State.setWhc_capOwned (hag : s.agent = .proc) (c : WhCtx) : (s.setWhc c).capOwned = s.capOwned := by
  simp [State.capOwned, State.setWhc, hag]

theorem capOwned_of_answer {r : Response} (ht : t = u.answer r) (hu : u.capOwned = s.capOwned) : t.capOwned = s.capOwned := by
  subst ht
  exact hu

theorem Effect.capOwned {i : Instr} (h : Effect i s t) (hag : s.agent = .proc)
    (hright : (rights (opOf i)).allows .proc = true) : t.capOwned = s.capOwned := by
  cases i with
  | cmAdv | crcRev24 | pbStat | acClear | prGet | prGetcv | lsFilter => exact capOwned_of_answer h rfl
  | cmI2f | whRefl | crcFwd | crcFwdt | crcRev | prStop | prReseed | prSetaa | prSetcv | lsStop | lsUpdate =>
    obtain ⟨-, ht⟩ := h
    exact capOwned_of_answer ht rfl
  | cmF2i =>
    obtain ⟨k, -, ht⟩ := h
    exact capOwned_of_answer ht rfl
  | cmHop | whXor | crcChk | prStart =>
    obtain ⟨-, -, ht⟩ := h
    exact capOwned_of_answer ht rfl
  | lsFollow =>
    obtain ⟨-, -, -, ht⟩ := h
    exact capOwned_of_answer ht rfl
  | pbPoll | pbRead | pbRel =>
    obtain ⟨_, _, _, ht⟩ := h
    exact capOwned_of_answer ht rfl
  | whLoad =>
    obtain ⟨-, ht⟩ := h
    exact capOwned_of_answer ht (State.setWhc_capOwned hag _)
  | whStep =>
    obtain ⟨-, -, -, ht⟩ := h
    exact capOwned_of_answer ht (State.setWhc_capOwned hag _)
  | whXors =>
    obtain ⟨-, -, ht⟩ := h
    exact capOwned_of_answer ht (State.setWhc_capOwned hag _)
  | acSee aa =>
    obtain ⟨-, ⟨-, ht⟩ | ⟨-, ht⟩⟩ := h
    · exact capOwned_of_answer ht (see_capOwned s aa)
    · exact capOwned_of_answer ht (see_capOwned s aa)
  | acScan =>
    obtain ⟨-, -, -, ht⟩ := h
    exact capOwned_of_answer ht (scanFrom_capOwned ..)
  | acGet =>
    obtain ⟨j, -, ⟨-, ht⟩ | ⟨-, ht⟩⟩ := h
    · exact capOwned_of_answer ht rfl
    · exact capOwned_of_answer ht rfl
  | prPkt =>
    obtain ⟨b, -, -, ht⟩ := h
    exact capOwned_of_answer ht (intake_capOwned s b)
  | tick now =>
    obtain ⟨-, ht⟩ | ⟨-, -, ht⟩ | ⟨-, u, events, hu, ht⟩ := h
    · exact capOwned_of_answer ht rfl
    · exact capOwned_of_answer ht rfl
    · have hlatched : u.capOwned = (s.latch now).capOwned := timeouts_capOwned hu
      exact capOwned_of_answer ht hlatched
  | prGetaa =>
    obtain ⟨-, ht⟩ | ⟨-, ht⟩ := h
    · exact capOwned_of_answer ht rfl
    · exact capOwned_of_answer ht rfl
  | prSetto =>
    obtain ⟨-, ht⟩ | ⟨-, ht⟩ | ⟨-, ht⟩ := h
    · exact capOwned_of_answer ht rfl
    · exact capOwned_of_answer ht rfl
    · exact capOwned_of_answer ht rfl
  | lsConnreq =>
    obtain ⟨-, -, -, ⟨-, ht⟩ | ⟨-, q, -, ht⟩⟩ := h
    · exact capOwned_of_answer ht rfl
    · exact capOwned_of_answer ht rfl
  | lsCancel =>
    obtain ⟨-, ht⟩ | ⟨-, ht⟩ := h
    · exact capOwned_of_answer ht rfl
    · exact capOwned_of_answer ht (unlink_capOwned s)
  | pbAcq | pbWrite | pbRssi | pbCommit | pbAbort | lsEvent | rtTake => exact absurd hright Bool.false_ne_true

/-- Through `PROC`'s operations what is `CAP`'s stays, and the pool stays or a queued buffer is released. -/
theorem exec_of_proc {i : Instr} (hag : s.agent = .proc) (h : exec i s = .next t) :
    t.capOwned = s.capOwned ∧ (t.pool = s.pool ∨ Released s t) := by
  rcases exec_next_permitted h with ⟨st, rfl⟩ | ⟨hright, heffect⟩
  · exact ⟨rfl, .inl rfl⟩
  · rw [hag] at hright
    exact ⟨heffect.capOwned hag hright, (exec_poolMove h).of_proc hright⟩

theorem exec_capPort {i : Instr} (hag : s.agent = .proc) (h : exec i s = .next t) : t.capPort = s.capPort := by
  obtain ⟨t', r, ht', -, -, hother, -⟩ := everyRequestAnsweredOnce i s
  cases h.symm.trans ht'
  rw [hag] at hother
  exact hother

end Proc

/-- Settles O60: `CAP` by its frame and the moves of the pool, `PROC` by what is `CAP`'s alone and the one move it may make. -/
theorem writeRights : Obligations.WriteRights := by
  refine ⟨fun i s t hag h => ⟨?_, fun hi => ?_, fun b => (exec_poolMove h).contents⟩, fun i s t hag h => ?_⟩
  · by_cases hi : opOf i = .lsEvent
    · rw [eq_lsEvent hi] at h
      have hframe := exec_lsEvent_frame hag h
      rw [hframe]
    · obtain ⟨pb, pbq, discards, rtPending, whCap, capPort, rfl⟩ := exec_capWrites hag h hi
      rfl
  · obtain ⟨pb, pbq, discards, rtPending, whCap, capPort, rfl⟩ := exec_capWrites hag h hi
    exact ⟨rfl, rfl, rfl, rfl, rfl, rfl⟩
  · obtain ⟨howned, hpool⟩ := exec_of_proc hag h
    refine ⟨congrArg CapOwned.discards howned, congrArg CapOwned.whCap howned, exec_capPort hag h, ?_⟩
    obtain hsame | hreleased := hpool
    · have hpb : t.pb = s.pb := congrArg Pool.pb hsame
      have hpbq : t.pbq = s.pbq := congrArg Pool.pbq hsame
      exact ⟨fun a => .inl (by rw [hpb]), fun a ha => hpbq ▸ ha⟩
    · exact ⟨hreleased.buffer, fun a => hreleased.mem_pbq⟩

end Sys2Proof.Machine
end
